-- ==== Sys2Proof/Word.lean ====
section
/-! DEFINITION. The word types of the core (00_scope.md R6, R7, R9): a 64-bit word, the 256-bit bus, the four-word
tuple of the state register, and one command as it stands on the command port. -/

namespace Sys2Proof

/-- A 64-bit unsigned word (00_scope.md R6 `XLEN`, R7). -/
abbrev Word := BitVec 64

/-- A 256-bit bus: `wdata` or `RDATA` (00_scope.md R6). -/
abbrev Bus := BitVec 256

/-- A four-word tuple `(word0, word1, word2, word3)` (00_scope.md R9; 10_state.md R20). -/
structure Quad where
  w0 : Word
  w1 : Word
  w2 : Word
  w3 : Word
deriving DecidableEq, Repr, Inhabited

/-- The tuple `(0, 0, 0, 0)`. -/
def Quad.zero : Quad := ⟨0, 0, 0, 0⟩

/-- Word-by-word XOR, addition over GF(2) (00_scope.md R8; 41_next.md R93). -/
def Quad.xor (a b : Quad) : Quad := ⟨a.w0 ^^^ b.w0, a.w1 ^^^ b.w1, a.w2 ^^^ b.w2, a.w3 ^^^ b.w3⟩

/-- Word `i` of a tuple, `S[i]` (00_scope.md R9). -/
def Quad.get (q : Quad) : Fin 4 → Word
  | 0 => q.w0
  | 1 => q.w1
  | 2 => q.w2
  | 3 => q.w3

/-- Bit `j` of a 256-bit tuple: bit `j mod 64` of word `j div 64` (42_jump.md R111; 20_memory.md R42). -/
def Quad.bit (q : Quad) (j : Nat) : Bool := (q.get (Fin.ofNat 4 (j / 64))).getLsbD (j % 64)

/-- One command as the host presents it: the command word and the write data (30_encoding.md R60, R68). -/
structure Command where
  cmd : BitVec 8
  wdata : Bus
deriving DecidableEq, Repr, Inhabited

end Sys2Proof
end

