-- ==== Sys2Proof/Config.lean ====
section
/-! DEFINITION. What an implementation fixes (00_scope.md R6), the read-only constants (10_state.md R23), the OPEN
parameters and the free values. An `opaque` constant has no value that a proof can see. -/

namespace Sys2Proof.Config

/-- The identity string of the core (00_scope.md R2). -/
def identity : String := "xoshiro256_prng_core/xoshiro256**+jump+long_jump/cmd-v1"

/-- Rotate amount of the output function (00_scope.md R6; 40_rotl_shifter.md R83). -/
def rotOutput : Nat := 7

/-- Rotate amount of the state update (00_scope.md R6; 40_rotl_shifter.md R83). -/
def rotState : Nat := 45

/-- Shift amount of the state update (00_scope.md R6; 41_next.md R90). -/
def shiftT : Nat := 17

/-- First multiplier of the output function (00_scope.md R6; 41_next.md R90). -/
def mulInner : Word := 5

/-- Second multiplier of the output function (00_scope.md R6; 41_next.md R90). -/
def mulOuter : Word := 9

/-- Next calls per jump or long-jump (00_scope.md R6; 42_jump.md R110). -/
def jumpSteps : Nat := 256

/-- The constant `JUMP` (42_jump.md R112). TESTED: 95_test_vectors.md section 4 records the check. Log entry 4. -/
def jump : Quad :=
  ⟨0x180ec6d33cfd0aba, 0xd5a61266f0c9392c, 0xa9582618e03fc9aa, 0x39abdc4529b1661c⟩

/-- The constant `LONG_JUMP` (42_jump.md R113). TESTED: 95_test_vectors.md section 4 records the check. Log entry 4. -/
def longJump : Quad :=
  ⟨0x76e15d3efefdcbbf, 0xc5004e441c522fb3, 0x77710069854ee241, 0x39109bb02acbe635⟩

/-- Byte orders of a serialisation made outside the core (20_memory.md R43). -/
inductive ByteOrder where
  | little
  | big
  | other
deriving DecidableEq, Repr, Inhabited

/-- OPEN parameter `STATE_BYTE_ORDER` (00_scope.md R6; 20_memory.md R43): no rule reads it, and no definition here. -/
opaque stateByteOrder : ByteOrder

/-- `N_LANES` less one, so that `nLanes` is at least 1 whatever this is. -/
opaque extraLanes : Nat

/-- OPEN parameter `N_LANES`, at least 1 (00_scope.md R6; 60_exceptions.md R150). -/
def nLanes : Nat := extraLanes + 1

/-- How the jump engine spreads the 256 constant bits over clock edges: any schedule (42_jump.md R114;
93_implementation_defined.md I12). Log entry 8. -/
inductive JumpDesign where
  /-- One bit per edge, and `extra` edges with no bit left before the completion (70_reset_and_hazards.md R170). -/
  | oneBitPerEdge (extra : Nat)
  /-- Any other: what the two latencies have above 1, and how many bits are taken at the edge of each age of a JUMP
  (`sel = 0`) or LONG_JUMP (`sel = 1`). What is then left is taken at the completing edge. -/
  | other (extraJump extraLongJump : Nat) (share : BitVec 1 → Nat → Nat)

/-- The timing of one implementation, every part of it OPEN: the model takes it as an argument (00_scope.md R6;
93_implementation_defined.md I10, I12). Of each latency but the jumps', what it has above 1. -/
structure Timing where
  extraNext : Nat
  extraLoad : Nat
  extraRead : Nat
  /-- No rule names the latency of an illegal command. DESIGN CHOICE, log entry 10. -/
  extraIllegal : Nat
  jumps : JumpDesign

/-- `LAT_NEXT`, at least 1 (70_reset_and_hazards.md R170). -/
def latNext (T : Timing) : Nat := T.extraNext + 1

/-- `LAT_JUMP`: at least 1, and at least 256 for one bit per edge (70_reset_and_hazards.md R170). -/
def latJump (T : Timing) : Nat :=
  match T.jumps with
  | .oneBitPerEdge extra => extra + jumpSteps
  | .other extraJump _ _ => extraJump + 1

/-- `LAT_LONG_JUMP`: at least 1, and equal to `LAT_JUMP` for one bit per edge (70_reset_and_hazards.md R170). -/
def latLongJump (T : Timing) : Nat :=
  match T.jumps with
  | .oneBitPerEdge extra => extra + jumpSteps
  | .other _ extraLongJump _ => extraLongJump + 1

/-- `LAT_LOAD`, at least 1 (70_reset_and_hazards.md R170). -/
def latLoad (T : Timing) : Nat := T.extraLoad + 1

/-- `LAT_READ`, at least 1 (70_reset_and_hazards.md R170). -/
def latRead (T : Timing) : Nat := T.extraRead + 1

/-- The latency of an illegal command, at least 1. DESIGN CHOICE, log entry 10. -/
def latIllegal (T : Timing) : Nat := T.extraIllegal + 1

/-- How many constant bits the engine takes at the edge of one age, where so many are left (42_jump.md R114). -/
def jumpBits (T : Timing) (sel : BitVec 1) (age : Nat) : Nat :=
  match T.jumps with
  | .oneBitPerEdge _ => 1
  | .other _ _ share => share sel age

/-- FREE VALUE: what `S` holds after the reset of a run with draw number n (70_reset_and_hazards.md R161, R162). Log entry 2. -/
opaque freeS : Nat → Quad

/-- FREE VALUE: `SEL` after the reset with draw number n (10_state.md R34). Log entry 2. -/
opaque freeSel : Nat → BitVec 1

/-- FREE VALUE: `ACC` after the reset with draw number n (10_state.md R34). Log entry 2. -/
opaque freeAcc : Nat → Quad

/-- FREE VALUE: `IDX` after the reset with draw number n (10_state.md R34). Log entry 2. -/
opaque freeIdx : Nat → BitVec 8

/-- FREE VALUE: the engine's working state after the reset with draw number n (93_implementation_defined.md I4). Log
entry 2. -/
opaque freeWork : Nat → Quad

end Sys2Proof.Config
end

