-- ==== Sys2Proof/Machine/State.lean ====
section
/-! DEFINITION. The state of one core instance (10_state.md), the reasons a step can stop, and the state right after
reset (10_state.md R34). -/

namespace Sys2Proof.Machine

/-- The model faults (60_exceptions.md R142). -/
inductive Fault where
  /-- `ModelFault(UnwrittenState)`: raised by NEXT, JUMP, LONG_JUMP and READ_STATE while `S_written` is false
  (10_state.md R22; 60_exceptions.md R143), and answered again by an instance that carries the mark (R142). Safe: the
  hardware goes on with unspecified register contents, the model stops. -/
  | unwrittenState
deriving DecidableEq, Repr

/-- The refusals. -/
inductive Refusal where
  /-- An instruction without a meaning, rejected by its mnemonic; raised by no arm of exec as it stands. Safe. -/
  | notModelled (mnemonic : String)
deriving DecidableEq, Repr

/-- The hidden registers of the jump-advance engine (10_state.md R28; 42_jump.md R114). No command reads them. -/
structure Engine where
  /-- `BUSY`: 1 from the acceptance of a JUMP or LONG_JUMP to its completion. -/
  busy : BitVec 1
  /-- `SEL`: 0 for `JUMP`, 1 for `LONG_JUMP`. -/
  sel : BitVec 1
  /-- `ACC[0..3]`, the accumulator. -/
  acc : Quad
  /-- `IDX = 64*w + b`, the index of the constant bit being processed. -/
  idx : BitVec 8
  /-- The working state `X` of 42_jump.md R110. -/
  work : Quad
deriving DecidableEq, Repr

/-- What the host does to an instance (60_exceptions.md R153). -/
inductive HostInput where
  /-- Present a command and wait for its response (30_encoding.md R68). -/
  | command (c : Command)
  /-- Present nothing; the core is idle (60_exceptions.md R152). -/
  | idle
  /-- Hold `rst = 1` for at least one clock edge between commands, then let it fall (70_reset_and_hazards.md R160). -/
  | reset
  /-- Present a command and raise `rst` after its acceptance and before its response pulse
  (70_reset_and_hazards.md R162). -/
  | resetDuring (c : Command)
deriving DecidableEq, Repr

/-- The state of one instance, as it stands between two steps: each command is indivisible (20_memory.md R45). -/
structure State where
  /-- The state register `S[0..3]` (10_state.md R20). -/
  S : Quad
  /-- `S_written`, model state (10_state.md R22). -/
  written : Bool
  /-- `ERR`, also the port `rsp_err` (10_state.md R24, R27). -/
  err : BitVec 1
  /-- `RDATA`, also the port `rsp_rdata` (10_state.md R24, R27). -/
  rdata : Bus
  /-- The port `cmd_ready` while `rst` is low (10_state.md R27, R34; 20_memory.md R45). -/
  cmdReady : BitVec 1
  /-- The port `rsp_valid` (10_state.md R27, R34): 1 in the cycle a command has completed in. -/
  rspValid : BitVec 1
  /-- The hidden jump-engine registers (10_state.md R28). -/
  engine : Engine
  /-- The fault mark of the instance (60_exceptions.md R142). -/
  faultMark : Option Fault
  /-- The model's own: what the host has still to send, first to be sent first (30_encoding.md R68). Log entry 5. -/
  inputs : List HostInput
  /-- The model's own: the number of the next draw of free values. Log entry 2. -/
  draws : Nat
deriving DecidableEq, Repr

/-- The state right after reset (10_state.md R34; 70_reset_and_hazards.md R160), no input pending. The spec gives `S`,
`SEL`, `ACC`, `IDX` and the working state no value: DESIGN CHOICE zero, log entries 1 and 3. -/
def State.reset : State where
  S := Quad.zero
  written := false
  err := 0
  rdata := 0
  cmdReady := 1
  rspValid := 0
  engine := { busy := 0, sel := 0, acc := Quad.zero, idx := 0, work := Quad.zero }
  faultMark := none
  inputs := []
  draws := 0

end Sys2Proof.Machine
end

