-- ==== Sys2Proof/Machine/Flags.lean ====
section
/-! DEFINITION. The one flag of the core, `ERR` (10_state.md R24, R30; 60_exceptions.md R141). -/

namespace Sys2Proof.Machine

/-- `ERR` after a legal command (60_exceptions.md R141). -/
def errPerformed : BitVec 1 := 0

/-- `ERR` after an illegal command (60_exceptions.md R140, R141). -/
def errIllegal : BitVec 1 := 1

end Sys2Proof.Machine
end

