-- ==== Sys2Proof/Syntax.lean ====
section
/-! DEFINITION. The commands of the core, one constructor per row of spec/opcode_table.json (30_encoding.md R62). -/

namespace Sys2Proof

/-- The five commands (30_encoding.md R62). LOAD_STATE alone has an operand, the four words on the `wdata` bus
(30_encoding.md R61), word0 first as R66 writes them. -/
inductive Instr where
  /-- NEXT: one output, one position (41_next.md R96). -/
  | next
  /-- JUMP: advance by 2^128 positions (42_jump.md R116). -/
  | jump
  /-- LONG_JUMP: advance by 2^192 positions (42_jump.md R117). -/
  | longJump
  /-- LOAD_STATE: write all four state words (43_state_access.md R130). -/
  | loadState (w0 w1 w2 w3 : Word)
  /-- READ_STATE: return all four state words (43_state_access.md R132). -/
  | readState
deriving DecidableEq, Repr

end Sys2Proof
end

