-- ==== Sys2Proof/WellFormed.lean ====
section
/-! DEFINITION. Well-formedness: of a command word, by the match and mask columns of the opcode table
(30_encoding.md R60, R62), written without the decoder; and of an instruction. -/

namespace Sys2Proof

/-- The `match` column of spec/opcode_table.json; every row's mask is 0xFF (30_encoding.md R62). -/
def tableMatches : List (BitVec 8) := [0x01, 0x02, 0x03, 0x04, 0x05]

/-- The mask column: every row has 0xFF (30_encoding.md R62). -/
def tableMask : BitVec 8 := 0xFF

/-- A command word is well formed when some row of the table matches it (30_encoding.md R62). -/
def wellFormedWord (cmd : BitVec 8) : Bool := tableMatches.any fun m => cmd &&& tableMask == m

/-- Well-formedness of an instruction. No operand value is excluded: every bit of every state word can be written
(10_state.md R20) and LOAD_STATE does not check its data, the all-zero one included (43_state_access.md R131);
the ranges a number must lie in are fixed by the type `Word` (the assembler, which reads plain numbers, checks them:
`AsmLine.wellFormed`, 30_encoding.md R66). -/
def Instr.wellFormed : Instr → Bool
  | .next => true
  | .jump => true
  | .longJump => true
  | .loadState _ _ _ _ => true
  | .readState => true

end Sys2Proof
end

