-- ==== Sys2Proof/Decode.lean ====
section
/-! DEFINITION. The decoder, total on every command word and rejecting by name (30_encoding.md R63, R64), the packing
of four words on a 256-bit bus (20_memory.md R41), and the encoder (30_encoding.md R62, R66). -/

namespace Sys2Proof

/-- Why a command word is illegal (30_encoding.md R64). -/
inductive IllegalCommand where
  /-- A reserved bit `cmd[7:3]` is set. -/
  | reservedBits (rsv : BitVec 5)
  /-- `RSV = 0` and `OP` is 000, 110 or 111. -/
  | reservedOp (op : BitVec 3)
deriving DecidableEq, Repr

/-- The five legal command words (30_encoding.md R62). -/
inductive Opcode where
  | next
  | jump
  | longJump
  | loadState
  | readState
deriving DecidableEq, Repr

/-- What a command word is (30_encoding.md R63): a command, or `Illegal` with its reason. -/
inductive WordClass where
  | legal (op : Opcode)
  | illegal (why : IllegalCommand)
deriving DecidableEq, Repr

/-- The decoder's answer: a command with its operand, or `Illegal` with its reason. -/
inductive Decoded where
  | command (i : Instr)
  | illegal (why : IllegalCommand)
deriving DecidableEq, Repr

/-- The field `OP = cmd[2:0]` (30_encoding.md R60). -/
def opField (cmd : BitVec 8) : BitVec 3 := cmd.extractLsb' 0 3

/-- The field `RSV = cmd[7:3]` (30_encoding.md R60). -/
def rsvField (cmd : BitVec 8) : BitVec 5 := cmd.extractLsb' 3 5

/-- Word `i` of a bus is its bits `[64i+63 : 64i]` (20_memory.md R41). -/
def wordsOfBus (b : Bus) : Quad :=
  ⟨b.extractLsb' 0 64, b.extractLsb' 64 64, b.extractLsb' 128 64, b.extractLsb' 192 64⟩

/-- `word3 ‖ word2 ‖ word1 ‖ word0` (20_memory.md R41; 43_state_access.md R132). -/
def busOfWords (q : Quad) : Bus := q.w3 ++ q.w2 ++ q.w1 ++ q.w0

/-- `Decode(cmd)` (30_encoding.md R63). -/
def decodeWord (cmd : BitVec 8) : WordClass :=
  if rsvField cmd ≠ 0 then .illegal (.reservedBits (rsvField cmd))
  else if opField cmd = 0b001 then .legal .next
  else if opField cmd = 0b010 then .legal .jump
  else if opField cmd = 0b011 then .legal .longJump
  else if opField cmd = 0b100 then .legal .loadState
  else if opField cmd = 0b101 then .legal .readState
  else .illegal (.reservedOp (opField cmd))

/-- LOAD_STATE with its four operand words read from `wdata` (30_encoding.md R61). -/
def loadOfBus (b : Bus) : Instr :=
  .loadState (wordsOfBus b).w0 (wordsOfBus b).w1 (wordsOfBus b).w2 (wordsOfBus b).w3

/-- A command with its operand: `wdata` reaches LOAD_STATE alone (30_encoding.md R61). -/
def withOperand (op : Opcode) (b : Bus) : Instr :=
  match op with
  | .next => .next
  | .jump => .jump
  | .longJump => .longJump
  | .loadState => loadOfBus b
  | .readState => .readState

/-- The decoder on a whole command. -/
def decode (c : Command) : Decoded :=
  match decodeWord c.cmd with
  | .legal op => .command (withOperand op c.wdata)
  | .illegal why => .illegal why

/-- The encoder: the command word of 30_encoding.md R62 and the `wdata` of R66 (0 where it is ignored). -/
def encode : Instr → Command
  | .next => ⟨0x01, 0⟩
  | .jump => ⟨0x02, 0⟩
  | .longJump => ⟨0x03, 0⟩
  | .loadState w0 w1 w2 w3 => ⟨0x04, busOfWords ⟨w0, w1, w2, w3⟩⟩
  | .readState => ⟨0x05, 0⟩

/-- The command whose bits are the low `nbits` bits of `w`, all higher bits 0: the command word is bits 7..0 and
`wdata` follows it from bit 8. -/
def tableCommand (nbits w : Nat) : Command :=
  ⟨BitVec.ofNat 8 (w % 2 ^ nbits), BitVec.ofNat 256 (w % 2 ^ nbits / 256)⟩

/-- The instruction the decoder reads from the bits `w`, none where it is illegal. -/
def decodeTableWord (nbits w : Nat) : Option Instr :=
  match decode (tableCommand nbits w) with
  | .command i => some i
  | .illegal _ => none

end Sys2Proof
end

