-- ==== Sys2Proof/Machine/Operands.lean ====
section
/-! DEFINITION. The one operand form, the four words of LOAD_STATE (30_encoding.md R61), and the layouts of `RDATA`
(10_state.md R25). -/

namespace Sys2Proof.Machine

/-- The tuple LOAD_STATE's four operand words make (43_state_access.md R130). -/
def loadOperand (w0 w1 w2 w3 : Word) : Quad := ⟨w0, w1, w2, w3⟩

/-- `RDATA` of a NEXT: the output in `[63:0]`, 0 above (10_state.md R25; 41_next.md R96 `zext_256`). -/
def rdataOfOutput (r : Word) : Bus := r.setWidth 256

/-- `RDATA` of a command that returns nothing: 0 (10_state.md R25). -/
def rdataNone : Bus := 0

/-- `RDATA` of a READ_STATE: `S[3] ‖ S[2] ‖ S[1] ‖ S[0]` (10_state.md R25; 43_state_access.md R132). -/
def rdataOfState (q : Quad) : Bus := busOfWords q

end Sys2Proof.Machine
end

