-- ==== Sys2Proof/Machine/Ops.lean ====
section
/-! DEFINITION. The named operations over the state: accepting, responding, the written check, the illegal command,
idling, reset and the fault mark. The core has no trap and no return from one (60_exceptions.md R147), so there is no
exception entry: what it has in its place is the illegal command's response (`illegalCommand`). -/

namespace Sys2Proof.Machine

/-- The three outcomes of a command or a step of an instance. -/
abbrev Result := Host.Outcome State Fault Refusal

/-- Go on with `f` from a next state; a fault or a refusal ends the run. -/
def andThen (r : Result) (f : State → Result) : Result :=
  match r with
  | .next s => f s
  | .fault e => .fault e
  | .refused e => .refused e

/-- A command is accepted: `cmd_ready` falls, and a response pulse still up is over (20_memory.md R45).
DEDUCED, log entry 7. -/
def accept (s : State) : State := { s with cmdReady := 0, rspValid := 0 }

/-- `respond(err, rdata)` (00_scope.md R10; 10_state.md R24) with the completion pulse (10_state.md R27). -/
def respond (err : BitVec 1) (rdata : Bus) (s : State) : State :=
  { s with err := err, rdata := rdata, rspValid := 1 }

/-- Write all four state words (43_state_access.md R130; 20_memory.md R44). -/
def writeS (q : Quad) (s : State) : State := { s with S := q }

/-- The written check of the four commands that read `S`: the stop the spec orders while `S_written` is false
(10_state.md R22; 30_encoding.md R65; 60_exceptions.md R143; 92_eei_decisions.md D9). Log entry 6. -/
def ifWritten (s : State) (f : State → Result) : Result :=
  if s.written then f s else .fault .unwrittenState

/-- ILLEGAL: `ERR <- 1`, `RDATA <- 0`, nothing else (60_exceptions.md R140). -/
def illegalCommand (s : State) : State := respond errIllegal rdataNone s

/-- A cycle without a command: the pulse is over and `cmd_ready` is up again (20_memory.md R45; DEDUCED, log entry 7);
everything else holds (60_exceptions.md R152). -/
def idleCycle (s : State) : State := { s with cmdReady := 1, rspValid := 0 }

/-- Reset during a run, seen in the first cycle after `rst` has fallen (70_reset_and_hazards.md R160, R161; 10_state.md
R34). What the spec leaves unspecified is a free value, log entry 2; the fault mark stays (60_exceptions.md R142). The draw
number goes up by `N_LANES`, so that with the lanes starting apart (`lanesReset`) no two resets of a system share a free
value. DESIGN CHOICE, log entry 2. -/
def resetCore (s : State) : State :=
  { s with
    S := Config.freeS s.draws
    written := false
    err := 0
    rdata := 0
    cmdReady := 1
    rspValid := 0
    engine :=
      { busy := 0
        sel := Config.freeSel s.draws
        acc := Config.freeAcc s.draws
        idx := Config.freeIdx s.draws
        work := Config.freeWork s.draws }
    draws := s.draws + Config.nLanes }

/-- Record a model fault as the mark of the instance, leaving `S`, `ERR` and `RDATA` as they were (60_exceptions.md
R142, R143), and everything else too, the ports `cmd_ready` and `rsp_valid` and the engine among it. DESIGN CHOICE, log
entry 14. -/
def recordFault (f : Fault) (s : State) : State := { s with faultMark := some f }

/-- The instance after an outcome of the command it was given in `s` (60_exceptions.md R142, R143); after a model fault
the ports stand as they did before the acceptance. DESIGN CHOICE, log entry 14. -/
def settle (s : State) : Result → State
  | .next t => t
  | .fault f => recordFault f s
  | .refused _ => s

end Sys2Proof.Machine
end

