-- ==== Sys2Proof/Machine/Rotl.lean ====
section
/-! DEFINITION. The sub-block 64bit_rotl_shifter (40_rotl_shifter.md). -/

namespace Sys2Proof.Machine

/-- A rotate amount, 1 to 63 and nothing else (40_rotl_shifter.md R81). -/
abbrev RotAmount := { k : Nat // 1 ≤ k ∧ k ≤ 63 }

/-- `rotl64(x, k) = (x << k) | (x >> (64 - k))` (40_rotl_shifter.md R80). -/
def rotl64 (x : Word) (k : RotAmount) : Word := (x <<< k.val) ||| (x >>> (64 - k.val))

/-- The rotate with its amount checked: an amount outside 1..63 is refused, with no value (40_rotl_shifter.md R81). -/
def rotl64? (x : Word) (k : Nat) : Option Word :=
  if h : 1 ≤ k ∧ k ≤ 63 then some (rotl64 x ⟨k, h⟩) else none

/-- The rotator at the output site (40_rotl_shifter.md R83). -/
def rotlOutput (x : Word) : Word := rotl64 x ⟨Config.rotOutput, by decide⟩

/-- The rotator at the state site (40_rotl_shifter.md R83). -/
def rotlState (x : Word) : Word := rotl64 x ⟨Config.rotState, by decide⟩

end Sys2Proof.Machine
end

