-- ==== Sys2Proof/Machine/Next.lean ====
section
/-! DEFINITION. The sub-block next_state_logic and the NEXT command (41_next.md). -/

namespace Sys2Proof.Machine

/-- `NextFn`, line by line in the order of 41_next.md R90: each line reads what the lines before it wrote. -/
def nextFn (S : Quad) : Word × Quad :=
  let result := rotlOutput (S.w1 * Config.mulInner) * Config.mulOuter
  let t := S.w1 <<< Config.shiftT
  let w0 := S.w0
  let w1 := S.w1
  let w2 := S.w2
  let w3 := S.w3
  let w2 := w2 ^^^ w0
  let w3 := w3 ^^^ w1
  let w1 := w1 ^^^ w2
  let w0 := w0 ^^^ w3
  let w2 := w2 ^^^ t
  let w3 := rotlState w3
  (result, ⟨w0, w1, w2, w3⟩)

/-- The output part of `NextFn` (41_next.md R90). -/
def nextOutput (S : Quad) : Word := (nextFn S).1

/-- The state part of `NextFn`, the linear map `M` (41_next.md R93; 42_jump.md R111). -/
def nextState (S : Quad) : Quad := (nextFn S).2

/-- NEXT (41_next.md R96). -/
def execNext (s : State) : Result :=
  ifWritten s fun s =>
    .next (respond errPerformed (rdataOfOutput (nextOutput s.S)) (writeS (nextState s.S) s))

end Sys2Proof.Machine
end

