-- ==== Sys2Proof/Machine/Jump.lean ====
section
/-! DEFINITION. The sub-block jump_advance_engine, JUMP and LONG_JUMP (42_jump.md). The procedure `jumpWith` is the
rule R110 as it is written; the engine of R114, with the registers of 10_state.md R28, is what the two commands run. -/

namespace Sys2Proof.Machine

/-- One pass of the inner loop of 42_jump.md R110: test bit `b` of the constant word, then call `NextFn` once. The pair
is the accumulator `A` and the working state `X`. -/
def jumpBit (c : Word) (p : Quad × Quad) (b : Nat) : Quad × Quad :=
  (if c.getLsbD b then p.1.xor p.2 else p.1, nextState p.2)

/-- The inner loop, `for b in 0..63` (42_jump.md R110). -/
def jumpWord (C : Quad) (p : Quad × Quad) (w : Nat) : Quad × Quad :=
  (List.range 64).foldl (jumpBit (C.get (Fin.ofNat 4 w))) p

/-- `JumpWith(C, S)` (42_jump.md R110): the outer loop, `for w in 0..3`, and the accumulator it leaves. -/
def jumpWith (C S : Quad) : Quad :=
  ((List.range 4).foldl (jumpWord C) (Quad.zero, S)).1

/-- The constant `SEL` selects (10_state.md R28). -/
def selected (sel : BitVec 1) : Quad := if sel = 0 then Config.jump else Config.longJump

/-- The engine at the acceptance of a JUMP (`sel = 0`) or LONG_JUMP (`sel = 1`) (10_state.md R28; 42_jump.md R114). -/
def startEngine (sel : BitVec 1) (S : Quad) : Engine :=
  { busy := 1, sel := sel, acc := Quad.zero, idx := 0, work := S }

/-- The engine processes the constant bit `IDX` and steps its working state (42_jump.md R114). -/
def tickEngine (e : Engine) : Engine :=
  { e with
    acc := if (selected e.sel).bit e.idx.toNat then e.acc.xor e.work else e.acc
    idx := e.idx + 1
    work := nextState e.work }

/-- `n` constant bits, one after the other (42_jump.md R114; log entry 8). -/
def ticks : Nat → Engine → Engine
  | 0, e => e
  | n + 1, e => ticks n (tickEngine e)

/-- The completion of a JUMP or LONG_JUMP: `S` is written once, with the accumulator, `BUSY` falls, the response is 0
(42_jump.md R114, R116, R117); a model fault while `S_written` is false (60_exceptions.md R143). -/
def finishJump (s : State) : Result :=
  ifWritten s fun s =>
    .next (respond errPerformed rdataNone
      { writeS s.engine.acc s with engine := { s.engine with busy := 0 } })

/-- The whole run of the engine on `S`, from acceptance to completion (42_jump.md R114). -/
def runJump (sel : BitVec 1) (s : State) : Result :=
  finishJump { s with engine := ticks Config.jumpSteps (startEngine sel s.S) }

/-- JUMP (42_jump.md R116). -/
def execJump (s : State) : Result := runJump 0 s

/-- LONG_JUMP (42_jump.md R117). -/
def execLongJump (s : State) : Result := runJump 1 s

end Sys2Proof.Machine
end

