-- ==== Sys2Proof/Machine/StateAccess.lean ====
section
/-! DEFINITION. LOAD_STATE and READ_STATE (43_state_access.md). -/

namespace Sys2Proof.Machine

/-- LOAD_STATE (43_state_access.md R130): all four words, `S_written`, no check of the data (R131). -/
def execLoadState (w0 w1 w2 w3 : Word) (s : State) : Result :=
  .next (respond errPerformed rdataNone { writeS (loadOperand w0 w1 w2 w3) s with written := true })

/-- READ_STATE (43_state_access.md R132). -/
def execReadState (s : State) : Result :=
  ifWritten s fun s => .next (respond errPerformed (rdataOfState s.S) s)

end Sys2Proof.Machine
end

