-- ==== Sys2Proof/Machine/Dispatch.lean ====
section
/-! DEFINITION. The dispatch on the decoded command (30_encoding.md R65). -/

namespace Sys2Proof.Machine

def exec (i : Instr) (s : State) : Host.Outcome State Fault Refusal :=
  match i with
  | .next => Sys2Proof.Machine.execNext s
  | .jump => Sys2Proof.Machine.execJump s
  | .longJump => Sys2Proof.Machine.execLongJump s
  | .loadState w0 w1 w2 w3 => Sys2Proof.Machine.execLoadState w0 w1 w2 w3 s
  | .readState => Sys2Proof.Machine.execReadState s

end Sys2Proof.Machine
end

