-- ==== Sys2Proof/Machine/Issue.lean ====
section
/-! DEFINITION. Performing one accepted command (30_encoding.md R65), one input of the host, and a sequence of them
(20_memory.md R47). -/

namespace Sys2Proof.Machine

/-- `Step(s, cmd, wdata)` (30_encoding.md R65): the illegal test first, then the command's own rule, which begins with
the written test. -/
def perform (c : Command) (s : State) : Result :=
  match decode c with
  | .illegal _ => .next (illegalCommand s)
  | .command i => exec i s

/-- What one input of the host does to an instance without a fault mark. Reset overrides a command in progress
(60_exceptions.md R145; 70_reset_and_hazards.md R162). DEDUCED, log entries 6 and 13. -/
def takeInput (i : HostInput) (s : State) : Result :=
  match i with
  | .command c => perform c (accept s)
  | .idle => .next (idleCycle s)
  | .reset => .next (resetCore s)
  | .resetDuring _ => .next (resetCore (accept s))

/-- One input to an instance; an instance that carries a fault mark takes no further step (60_exceptions.md R142). -/
def issue (i : HostInput) (s : State) : Result :=
  match s.faultMark with
  | some f => .fault f
  | none => takeInput i s

/-- A sequence of inputs, each after the response to the one before (20_memory.md R47; 30_encoding.md R68). -/
def issueAll : List HostInput → State → Result
  | [], s => .next s
  | i :: is, s => andThen (issue i s) (issueAll is)

/-- The next input of the host's queue, taken off it; with none pending the core is idle (60_exceptions.md R152). -/
def nextInput (s : State) : HostInput × State :=
  match s.inputs with
  | [] => (.idle, s)
  | i :: is => (i, { s with inputs := is })

end Sys2Proof.Machine
end

