-- ==== Sys2Proof/Machine/Step.lean ====
section
/-! DEFINITION. One step: the host's next input, performed whole (30_encoding.md R65; 20_memory.md R45, R47). -/

namespace Sys2Proof.Machine

/-- One step of an instance (30_encoding.md R65). -/
def step (s : State) : Host.Outcome State Fault Refusal :=
  issue (nextInput s).1 (nextInput s).2

/-- `s` with the command of the bits `w` as the host's next input, so that the next step performs it. Log entry 5. -/
def State.withFetchWord (s : State) (nbits w : Nat) : State :=
  { s with inputs := .command (tableCommand nbits w) :: s.inputs }

end Sys2Proof.Machine
end

