-- ==== Sys2Proof/Machine/Assembler.lean ====
section
/-! DEFINITION. The textual form of a command (30_encoding.md R66), the pseudo-instructions (R67) and programs as
sequences of commands (R68). Text is a list of characters. -/

namespace Sys2Proof.Machine

/-- One line of assembler text, its numbers as they are written (30_encoding.md R66, R67). -/
inductive AsmLine where
  | next
  | jump
  | longJump
  | loadState (w0 w1 w2 w3 : Nat)
  | readState
  /-- `.cmd v` -/
  | rawCmd (v : Nat)
  /-- `.cmd v, w0, w1, w2, w3` -/
  | rawCmdData (v w0 w1 w2 w3 : Nat)
  /-- pseudo `seed w0, w1, w2, w3` -/
  | seed (w0 w1 w2 w3 : Nat)
  /-- pseudo `skip n` -/
  | skip (n : Nat)
  /-- nothing but white space or a comment. DEDUCED, log entry 11. -/
  | blank
deriving DecidableEq, Repr

/-- A number an assembler takes as a word (30_encoding.md R66). -/
def isWordNumber (w : Nat) : Bool := decide (w < 2 ^ 64)

/-- The ranges an assembler checks (30_encoding.md R66: `w` in 0..2^64-1, `v` in 0..255; R67: `n` at least 1). -/
def AsmLine.wellFormed : AsmLine → Bool
  | .next => true
  | .jump => true
  | .longJump => true
  | .loadState w0 w1 w2 w3 => isWordNumber w0 && isWordNumber w1 && isWordNumber w2 && isWordNumber w3
  | .readState => true
  | .rawCmd v => decide (v < 256)
  | .rawCmdData v w0 w1 w2 w3 =>
    decide (v < 256) && isWordNumber w0 && isWordNumber w1 && isWordNumber w2 && isWordNumber w3
  | .seed w0 w1 w2 w3 => isWordNumber w0 && isWordNumber w1 && isWordNumber w2 && isWordNumber w3
  | .skip n => decide (1 ≤ n)
  | .blank => true

/-- `w3 ‖ w2 ‖ w1 ‖ w0` (30_encoding.md R66; 20_memory.md R41). -/
def asmData (w0 w1 w2 w3 : Nat) : Bus :=
  busOfWords ⟨BitVec.ofNat 64 w0, BitVec.ofNat 64 w1, BitVec.ofNat 64 w2, BitVec.ofNat 64 w3⟩

/-- The commands of a line (30_encoding.md R66 table, R67 expansions); none where the assembler refuses it. -/
def assembleLine (l : AsmLine) : Option (List Command) :=
  if l.wellFormed then
    match l with
    | .next => some [⟨0x01, 0⟩]
    | .jump => some [⟨0x02, 0⟩]
    | .longJump => some [⟨0x03, 0⟩]
    | .loadState w0 w1 w2 w3 => some [⟨0x04, asmData w0 w1 w2 w3⟩]
    | .readState => some [⟨0x05, 0⟩]
    | .rawCmd v => some [⟨BitVec.ofNat 8 v, 0⟩]
    | .rawCmdData v w0 w1 w2 w3 => some [⟨BitVec.ofNat 8 v, asmData w0 w1 w2 w3⟩]
    | .seed w0 w1 w2 w3 => some [⟨0x04, asmData w0 w1 w2 w3⟩]
    | .skip n => some (List.replicate n ⟨0x01, 0⟩)
    | .blank => some []
  else none

/-- The assembler's warning on the all-zero seed, which is no refusal (30_encoding.md R67). -/
def warnsZeroSeed (l : AsmLine) : Bool := l == .seed 0 0 0 0

/-- A program: the commands of its lines in order (30_encoding.md R68). -/
def assemble : List AsmLine → Option (List Command)
  | [] => some []
  | l :: ls =>
    match assembleLine l, assemble ls with
    | some cs, some ds => some (cs ++ ds)
    | _, _ => none

/-- White space between the parts of a line. -/
def isBlankChar (c : Char) : Bool := c == ' ' || c == '\t'

/-- A letter in lower case: mnemonics are case-insensitive (30_encoding.md R66). -/
def lowerChar (c : Char) : Char := if 'A' ≤ c ∧ c ≤ 'Z' then Char.ofNat (c.toNat + 32) else c

/-- White space taken off both ends. -/
def trimChars (cs : List Char) : List Char :=
  ((cs.dropWhile isBlankChar).reverse.dropWhile isBlankChar).reverse

/-- The value of a digit of a number in a base up to 16. -/
def digitValue (c : Char) : Option Nat :=
  if '0' ≤ c ∧ c ≤ '9' then some (c.toNat - '0'.toNat)
  else if 'a' ≤ lowerChar c ∧ lowerChar c ≤ 'f' then some ((lowerChar c).toNat - 'a'.toNat + 10)
  else none

/-- The value of a digit string read on from `acc`. -/
def readDigits (base : Nat) (acc : Nat) : List Char → Option Nat
  | [] => some acc
  | c :: cs =>
    match digitValue c with
    | some d => if d < base then readDigits base (acc * base + d) cs else none
    | none => none

/-- A number in decimal. -/
def readDecimal (cs : List Char) : Option Nat :=
  match cs with
  | d :: ds => readDigits 10 0 (d :: ds)
  | [] => none

/-- A number, in decimal or with a `0x` mark in hexadecimal (30_encoding.md R66). -/
def readNumber (cs : List Char) : Option Nat :=
  match cs with
  | '0' :: 'x' :: d :: ds => readDigits 16 0 (d :: ds)
  | cs => readDecimal cs

/-- The parts of a text between commas. -/
def splitCommas : List Char → List (List Char)
  | [] => [[]]
  | ',' :: cs => [] :: splitCommas cs
  | c :: cs =>
    match splitCommas cs with
    | [] => [[c]]
    | p :: ps => (c :: p) :: ps

/-- All numbers of a list of texts, or none. -/
def readNumbers : List (List Char) → Option (List Nat)
  | [] => some []
  | p :: ps =>
    match readNumber (trimChars p), readNumbers ps with
    | some n, some ns => some (n :: ns)
    | _, _ => none

/-- The operands after a mnemonic: none, or numbers separated by commas (30_encoding.md R66). -/
def readOperands (cs : List Char) : Option (List Nat) :=
  if trimChars cs = [] then some [] else readNumbers (splitCommas cs)

/-- `skip` and its count, which is written in decimal (30_encoding.md R67). -/
def skipLine (cs : List Char) : Option AsmLine :=
  match readDecimal (trimChars cs) with
  | some n => some (.skip n)
  | none => none

/-- The line a mnemonic (in lower case) and its operands make (30_encoding.md R66, R67). -/
def lineOf (mnemonic : List Char) (operands : List Nat) : Option AsmLine :=
  if mnemonic = "next".toList ∧ operands = [] then some .next
  else if mnemonic = "jump".toList ∧ operands = [] then some .jump
  else if mnemonic = "long_jump".toList ∧ operands = [] then some .longJump
  else if mnemonic = "read_state".toList ∧ operands = [] then some .readState
  else
    match operands with
    | [v] => if mnemonic = ".cmd".toList then some (.rawCmd v) else none
    | [w0, w1, w2, w3] =>
      if mnemonic = "load_state".toList then some (.loadState w0 w1 w2 w3)
      else if mnemonic = "seed".toList then some (.seed w0 w1 w2 w3)
      else none
    | [v, w0, w1, w2, w3] =>
      if mnemonic = ".cmd".toList then some (.rawCmdData v w0 w1 w2 w3) else none
    | _ => none

/-- One line of text: what a `;` starts is a comment, then a mnemonic and its operands (30_encoding.md R66). White space
around the parts is skipped. DEDUCED, log entry 11. -/
def parseLine (text : List Char) : Option AsmLine :=
  let body := trimChars (text.takeWhile fun c => c != ';')
  let word := body.takeWhile fun c => !isBlankChar c
  let rest := body.dropWhile fun c => !isBlankChar c
  if body = [] then some .blank
  else if word.map lowerChar = "skip".toList then skipLine rest
  else
    match readOperands rest with
    | some ns => lineOf (word.map lowerChar) ns
    | none => none

end Sys2Proof.Machine
end

