-- ==== Sys2Proof/Machine/Cycle.lean ====
section
/-! DEFINITION. The core clock edge by clock edge: the ports of 10_state.md R27, the handshake of 20_memory.md R45, the
engine's registers while a jump runs (10_state.md R28), reset at any edge (70_reset_and_hazards.md R160, R162), for
every timing the OPEN latencies of R170 and the free schedule of 42_jump.md R114 allow. No rule needs it (R170); the step
of Machine/Step.lean is its command-level view, and statements relate the two. -/

namespace Sys2Proof.Machine

/-- The input ports in one cycle (10_state.md R27). -/
structure Pins where
  rst : BitVec 1
  cmdValid : BitVec 1
  cmd : BitVec 8
  wdata : Bus
deriving DecidableEq, Repr

/-- The output ports in one cycle (10_state.md R27). -/
structure Ports where
  cmdReady : BitVec 1
  rspValid : BitVec 1
  rspErr : BitVec 1
  rspRdata : Bus
deriving DecidableEq, Repr

/-- An accepted command that has not completed: what was sampled at its acceptance (10_state.md R27), the number of
clock edges since, and how many constant bits the engine has taken. DESIGN CHOICE, log entry 9. -/
structure Flight where
  command : Command
  age : Nat
  bits : Nat
deriving DecidableEq, Repr

/-- The instance between two clock edges. -/
structure CycleState where
  core : State
  flight : Option Flight
deriving DecidableEq, Repr

/-- The outcome of one clock edge. -/
abbrev CycleResult := Host.Outcome CycleState Fault Refusal

/-- The output ports: `cmd_ready` is 0 while `rst = 1` (70_reset_and_hazards.md R160); the response ports are the
response registers (10_state.md R27). -/
def portsOf (p : Pins) (c : CycleState) : Ports :=
  { cmdReady := if p.rst = 1 then 0 else c.core.cmdReady
    rspValid := c.core.rspValid
    rspErr := c.core.err
    rspRdata := c.core.rdata }

/-- The latency of a command, in clock edges from its acceptance on (70_reset_and_hazards.md R170). -/
def latency (T : Config.Timing) (c : Command) : Nat :=
  match decode c with
  | .illegal _ => Config.latIllegal T
  | .command .next => Config.latNext T
  | .command .jump => Config.latJump T
  | .command .longJump => Config.latLongJump T
  | .command (.loadState _ _ _ _) => Config.latLoad T
  | .command .readState => Config.latRead T

/-- Which constant the engine takes for a command, none for a command that does not use it (10_state.md R28). -/
def engineSel (c : Command) : Option (BitVec 1) :=
  match decode c with
  | .illegal _ => none
  | .command .next => none
  | .command .jump => some 0
  | .command .longJump => some 1
  | .command (.loadState _ _ _ _) => none
  | .command .readState => none

/-- The acceptance of a command at an edge; a JUMP or LONG_JUMP loads the engine (10_state.md R28). -/
def acceptCommand (c : Command) (s : State) : State :=
  match engineSel c with
  | none => accept s
  | some sel => { accept s with engine := startEngine sel s.S }

/-- How many constant bits the engine takes at an edge with this command in flight: its schedule's number while it has
edges and bits left, all that is left at the completing edge, none for a command that does not use it (42_jump.md R114;
log entry 8). -/
def bitsDue (T : Config.Timing) (f : Flight) : Nat :=
  match engineSel f.command with
  | none => 0
  | some sel =>
    if f.age + 1 < latency T f.command then min (Config.jumpBits T sel f.age) (Config.jumpSteps - f.bits)
    else Config.jumpSteps - f.bits

/-- What an edge does to the engine while a command is in flight (42_jump.md R114). -/
def engineEdge (T : Config.Timing) (f : Flight) (s : State) : State :=
  { s with engine := ticks (bitsDue T f) s.engine }

/-- The flight after an edge that does not complete it. -/
def flightOn (T : Config.Timing) (f : Flight) : Flight :=
  { f with age := f.age + 1, bits := f.bits + bitsDue T f }

/-- The completion of a command: the jumps write `S` from the accumulator, the others perform their rule. -/
def complete (c : Command) (s : State) : Result :=
  match engineSel c with
  | none => perform c s
  | some _ => finishJump s

/-- An edge with a command in flight: the engine's part, then either one edge more or the completion. -/
def flightEdge (T : Config.Timing) (f : Flight) (s : State) : CycleResult :=
  if f.age + 1 < latency T f.command then
    .next ⟨engineEdge T f s, some (flightOn T f)⟩
  else
    match complete f.command (engineEdge T f s) with
    | .next t => .next ⟨t, none⟩
    | .fault e => .fault e
    | .refused e => .refused e

/-- One rising edge of `clk` (10_state.md R27): reset first (60_exceptions.md R145), then the command in flight, then the
acceptance of a command where `cmd_valid` and `cmd_ready` are both 1, else an idle cycle. -/
def edge (T : Config.Timing) (p : Pins) (c : CycleState) : CycleResult :=
  match c.core.faultMark with
  | some f => .fault f
  | none =>
    if p.rst = 1 then .next ⟨resetCore c.core, none⟩
    else
      match c.flight with
      | some f => flightEdge T f c.core
      | none =>
        if p.cmdValid = 1 ∧ c.core.cmdReady = 1 then
          flightEdge T ⟨⟨p.cmd, p.wdata⟩, 0, 0⟩ (acceptCommand ⟨p.cmd, p.wdata⟩ c.core)
        else .next ⟨idleCycle c.core, none⟩

/-- A sequence of edges, each with its own input ports. -/
def edges (T : Config.Timing) : List Pins → CycleState → CycleResult
  | [], c => .next c
  | p :: ps, c =>
    match edge T p c with
    | .next c' => edges T ps c'
    | .fault e => .fault e
    | .refused e => .refused e

/-- The ports on which a host presents a command. -/
def presenting (c : Command) : Pins := { rst := 0, cmdValid := 1, cmd := c.cmd, wdata := c.wdata }

end Sys2Proof.Machine
end

