-- ==== Sys2Proof/Machine/Lanes.lean ====
section
/-! DEFINITION. A system of `N_LANES` instances (60_exceptions.md R150; 20_memory.md R48) and several hosts on one
instance (20_memory.md R50). Beside the one-instance step, not part of it: DESIGN CHOICE, log entry 12. -/

namespace Sys2Proof.Machine

/-- The instances of a system right after reset, each with its own registers (60_exceptions.md R150). The
lanes draw their free values apart, lane `k` from `k` on; what the spec leaves unspecified is the same named value in
each of them until then. DESIGN CHOICE, log entries 2 and 12. -/
def lanesReset : List State := (List.range Config.nLanes).map fun k => { State.reset with draws := k }

/-- One instance after one input: the next state, or the state with the fault recorded (60_exceptions.md R142). -/
def laneAfter (s : State) (i : HostInput) : State := settle s (issue i s)

/-- The host of lane `k` gives it one input; no other lane takes part (20_memory.md R48). -/
def deliver (lanes : List State) (e : Nat × HostInput) : List State :=
  lanes.modify e.1 fun s => laneAfter s e.2

/-- A run of the system: events in the order in time, each with its lane. -/
def runLanes (lanes : List State) (es : List (Nat × HostInput)) : List State := es.foldl deliver lanes

/-- The inputs that lane `k` gets in a run of the system. -/
def inputsOf (k : Nat) (es : List (Nat × HostInput)) : List HostInput :=
  (es.filter fun e => e.1 == k).map Prod.snd

/-- The third list is an interleaving of the first two: every element of both, each list's own order kept
(20_memory.md R50). -/
inductive Interleaving : List HostInput → List HostInput → List HostInput → Prop where
  | nil : Interleaving [] [] []
  | first {xs ys zs : List HostInput} (x : HostInput) (h : Interleaving xs ys zs) : Interleaving (x :: xs) ys (x :: zs)
  | second {xs ys zs : List HostInput} (y : HostInput) (h : Interleaving xs ys zs) : Interleaving xs (y :: ys) (y :: zs)

/-- An arbiter outside the core merges two hosts' commands; each grant takes the next command of one host, `true` the
first's, and what is left when the grants end is not sent (20_memory.md R50). -/
def arbitrate : List Bool → List HostInput → List HostInput → List HostInput
  | [], _, _ => []
  | true :: gs, [], ys => arbitrate gs [] ys
  | true :: gs, x :: xs, ys => x :: arbitrate gs xs ys
  | false :: gs, xs, [] => arbitrate gs xs []
  | false :: gs, xs, y :: ys => y :: arbitrate gs xs ys

end Sys2Proof.Machine
end

