-- ==== Sys2Proof/Safety.lean ====
section
/-! DEFINITION. What counts as a good state and a good run, in the terms the statements use. -/

namespace Sys2Proof.Machine

/-- The period of the generator, 2^256 - 1 (41_next.md R95). -/
def period : Nat := 2 ^ 256 - 1

/-- The state after `n` positions (42_jump.md R111 `M^n`). -/
def advance (n : Nat) (S : Quad) : Quad := nextState^[n] S

/-- The XOR of a list of tuples (42_jump.md R111). -/
def xorAll (qs : List Quad) : Quad := qs.foldr Quad.xor Quad.zero

/-- The constant with bit `j` alone set (42_jump.md R118 item 4). -/
def unitConstant (j : Nat) : Quad := wordsOfBus (BitVec.ofNat 256 (2 ^ j))

/-- The number of set bits of a word (40_rotl_shifter.md R82). -/
def popCount (x : Word) : Nat := ((List.range 64).filter fun j => x.getLsbD j).length

/-- The starting point of lane `l` of group `g`: `g` long-jumps from the root, then `l` jumps (42_jump.md R119). -/
def laneStart (g l : Nat) (R : Quad) : Quad :=
  (jumpWith Config.jump)^[l] ((jumpWith Config.longJump)^[g] R)

/-- The seeded condition of a useful run: loaded, and not all-zero (70_reset_and_hazards.md R163, R164). -/
def State.seeded (s : State) : Prop := s.written = true ∧ s.S ≠ Quad.zero

/-- What holds of an instance between two commands: the engine is idle (10_state.md R28), a response pulse is up exactly
while `cmd_ready` is down (20_memory.md R45), and an error came with no data (60_exceptions.md R141). -/
def State.settled (s : State) : Prop :=
  s.engine.busy = 0 ∧ (s.rspValid = 1 ↔ s.cmdReady = 0) ∧ (s.err = 1 → s.rdata = 0)

/-- Two instances a host cannot tell apart: everything agrees but the hidden engine, what is still queued, the free
values drawn, and `S` while it is unwritten (10_state.md R22, R28; 70_reset_and_hazards.md R161). -/
def Alike (s t : State) : Prop :=
  s.written = t.written ∧ (s.written = true → s.S = t.S) ∧ s.err = t.err ∧ s.rdata = t.rdata ∧
    s.cmdReady = t.cmdReady ∧ s.rspValid = t.rspValid ∧ s.faultMark = t.faultMark

/-- Two outcomes a host cannot tell apart. -/
def AlikeResult : Result → Result → Prop
  | .next s, .next t => Alike s t
  | .fault e, .fault f => e = f
  | .refused e, .refused f => e = f
  | _, _ => False

/-- A command-level outcome as the outcome of a run of clock edges that ends with no command in flight. -/
def atRest : Result → CycleResult
  | .next t => .next ⟨t, none⟩
  | .fault e => .fault e
  | .refused e => .refused e

end Sys2Proof.Machine
end

