-- ==== Sys2Proof/Certificates/Slice0/Obligations.lean ====
section
/-! DEFINITION. The statements for the provers. -/

open Sys2Proof Sys2Proof.Machine

/-! Encoding -/

/-- 30_encoding.md R62, row by row, for every value of `wdata`. -/
def Obligations.OpcodeMapDecodes : Prop :=
  ∀ w : Bus,
    (∃ why, decode ⟨0x00, w⟩ = .illegal why) ∧
    decode ⟨0x01, w⟩ = .command .next ∧
    decode ⟨0x02, w⟩ = .command .jump ∧
    decode ⟨0x03, w⟩ = .command .longJump ∧
    decode ⟨0x04, w⟩ = .command (loadOfBus w) ∧
    decode ⟨0x05, w⟩ = .command .readState ∧
    (∃ why, decode ⟨0x06, w⟩ = .illegal why) ∧
    (∃ why, decode ⟨0x07, w⟩ = .illegal why) ∧
    (∀ cmd : BitVec 8, (∃ i, decode ⟨cmd, w⟩ = .command i) →
      cmd = 0x01 ∨ cmd = 0x02 ∨ cmd = 0x03 ∨ cmd = 0x04 ∨ cmd = 0x05)

/-- 30_encoding.md R63: the decoder's function, and its count of 5 commands and 251 illegal words. -/
def Obligations.DecoderIsTotalWithFiveCommands : Prop :=
  ∀ c : Command,
    (rsvField c.cmd ≠ 0 → ∃ why, decode c = .illegal why) ∧
    (rsvField c.cmd = 0 →
      (opField c.cmd = 0b001 → decode c = .command .next) ∧
      (opField c.cmd = 0b010 → decode c = .command .jump) ∧
      (opField c.cmd = 0b011 → decode c = .command .longJump) ∧
      (opField c.cmd = 0b100 → decode c = .command (loadOfBus c.wdata)) ∧
      (opField c.cmd = 0b101 → decode c = .command .readState) ∧
      (opField c.cmd = 0b000 ∨ opField c.cmd = 0b110 ∨ opField c.cmd = 0b111 → ∃ why, decode c = .illegal why)) ∧
    ((∃ i, decode c = .command i) ↔ wellFormedWord c.cmd = true) ∧
    ((List.range 256).filter fun n => wellFormedWord (BitVec.ofNat 8 n)).length = 5 ∧
    ((List.range 256).filter fun n => !wellFormedWord (BitVec.ofNat 8 n)).length = 251

/-- Decode undoes encode, for every instruction and every operand (30_encoding.md R61 to R63; 20_memory.md R41). -/
def Obligations.DecodeOfEncodeIsIdentity : Prop :=
  ∀ i : Instr, i.wellFormed = true →
    decode (encode i) = .command i ∧ wellFormedWord (encode i).cmd = true

/-- Encode undoes decode: the command word is unique and `wdata` is kept by LOAD_STATE alone (30_encoding.md R61). -/
def Obligations.EncodeOfDecodeKeepsTheCommand : Prop :=
  ∀ (c : Command) (i : Instr), decode c = .command i →
    encode i = ⟨c.cmd, if c.cmd = 0x04 then c.wdata else 0⟩

/-- 20_memory.md R41: the place of each word on a bus, and that nothing else is on it. -/
def Obligations.BusCarriesWordsInOrder : Prop :=
  (∀ q : Quad,
    (busOfWords q).extractLsb' 192 64 = q.w3 ∧ (busOfWords q).extractLsb' 128 64 = q.w2 ∧
    (busOfWords q).extractLsb' 64 64 = q.w1 ∧ (busOfWords q).extractLsb' 0 64 = q.w0) ∧
  (∀ (b : Bus) (i : Fin 4), (wordsOfBus b).get i = b.extractLsb' (64 * i.val) 64) ∧
  (∀ q : Quad, wordsOfBus (busOfWords q) = q) ∧
  (∀ b : Bus, busOfWords (wordsOfBus b) = b)

/-- 30_encoding.md R61: LOAD_STATE takes its four words from `wdata`, every other command word ignores it. -/
def Obligations.WdataReachesOnlyLoadState : Prop :=
  (∀ (b : Bus) (s : State), ∃ t, perform ⟨0x04, b⟩ s = .next t ∧
    ∀ i : Fin 4, t.S.get i = b.extractLsb' (64 * i.val) 64) ∧
  (∀ (cmd : BitVec 8) (b b' : Bus) (s : State), cmd ≠ 0x04 → perform ⟨cmd, b⟩ s = perform ⟨cmd, b'⟩ s)

/-- 30_encoding.md R66, R67: what each kind of line assembles to, and what is refused. -/
def Obligations.AssemblerLinesAreTheirCommands : Prop :=
  assembleLine .next = some [⟨0x01, 0⟩] ∧ assembleLine .jump = some [⟨0x02, 0⟩] ∧
  assembleLine .longJump = some [⟨0x03, 0⟩] ∧ assembleLine .readState = some [⟨0x05, 0⟩] ∧
  (∀ w0 w1 w2 w3 : Nat,
    (w0 < 2 ^ 64 ∧ w1 < 2 ^ 64 ∧ w2 < 2 ^ 64 ∧ w3 < 2 ^ 64 →
      ∃ c, assembleLine (.loadState w0 w1 w2 w3) = some [c] ∧ assembleLine (.seed w0 w1 w2 w3) = some [c] ∧
        ∃ i, decode c = .command i ∧
          i = .loadState (BitVec.ofNat 64 w0) (BitVec.ofNat 64 w1) (BitVec.ofNat 64 w2) (BitVec.ofNat 64 w3)) ∧
    (2 ^ 64 ≤ w0 ∨ 2 ^ 64 ≤ w1 ∨ 2 ^ 64 ≤ w2 ∨ 2 ^ 64 ≤ w3 →
      assembleLine (.loadState w0 w1 w2 w3) = none ∧ assembleLine (.seed w0 w1 w2 w3) = none)) ∧
  (∀ v : Nat, (v < 256 → ∃ c : Command, assembleLine (.rawCmd v) = some [c] ∧ c.cmd.toNat = v ∧ c.wdata = 0) ∧
    (256 ≤ v → assembleLine (.rawCmd v) = none)) ∧
  (∀ (v : Nat) (w0 w1 w2 w3 : Word), v < 256 →
    assembleLine (.rawCmdData v w0.toNat w1.toNat w2.toNat w3.toNat) =
      some [⟨BitVec.ofNat 8 v, w3 ++ w2 ++ w1 ++ w0⟩]) ∧
  (∀ v w0 w1 w2 w3 : Nat, 256 ≤ v ∨ 2 ^ 64 ≤ w0 ∨ 2 ^ 64 ≤ w1 ∨ 2 ^ 64 ≤ w2 ∨ 2 ^ 64 ≤ w3 →
    assembleLine (.rawCmdData v w0 w1 w2 w3) = none) ∧
  assembleLine (.skip 0) = none ∧
  (∀ n : Nat, 1 ≤ n → ∃ cs, assembleLine (.skip n) = some cs ∧ cs.length = n ∧
    ∀ c ∈ cs, decode c = .command .next)

/-! The sub-block 64bit_rotl_shifter -/

/-- 40_rotl_shifter.md R80: the value on 1..63, the refusal outside, the corner cases and the worked example. -/
def Obligations.RotateHasItsValueOnItsDomain : Prop :=
  (∀ (x : Word) (k : Nat), (1 ≤ k ∧ k ≤ 63 → rotl64? x k = some ((x <<< k) ||| (x >>> (64 - k)))) ∧
    (k = 0 ∨ 64 ≤ k → rotl64? x k = none)) ∧
  (∀ x : Word, (rotl64 x ⟨1, by decide⟩).getLsbD 0 = x.getLsbD 63 ∧
    (rotl64 x ⟨63, by decide⟩).getLsbD 63 = x.getLsbD 0) ∧
  (∀ k : RotAmount, rotl64 0 k = 0 ∧ rotl64 0xFFFFFFFFFFFFFFFF k = 0xFFFFFFFFFFFFFFFF) ∧
  rotl64 0x0123456789abcdef ⟨7, by decide⟩ = 0x91a2b3c4d5e6f780

/-- 40_rotl_shifter.md R82: bit `j` is bit `(j - k) mod 64`; the set bits are preserved; two rotates add up. -/
def Obligations.RotateMovesBits : Prop :=
  (∀ (x : Word) (k : RotAmount) (j : Nat), j < 64 →
    (rotl64 x k).getLsbD j = x.getLsbD ((j + 64 - k.val) % 64)) ∧
  (∀ (x : Word) (k : RotAmount), popCount (rotl64 x k) = popCount x) ∧
  (∀ (x : Word) (a b c : RotAmount), c.val = a.val + b.val → rotl64 (rotl64 x a) b = rotl64 x c)

/-- 40_rotl_shifter.md R84. -/
def Obligations.RotateBackGivesTheWord : Prop :=
  ∀ (x : Word) (k : Nat) (h : 1 ≤ k ∧ k ≤ 63),
    rotl64 (rotl64 x ⟨k, h⟩) ⟨64 - k, by omega⟩ = x

/-! The sub-block next_state_logic -/

/-- 41_next.md R92. -/
def Obligations.NextFnHasItsClosedForm : Prop :=
  ∀ s0 s1 s2 s3 : Word,
    nextFn ⟨s0, s1, s2, s3⟩ =
      (rotl64 (s1 * 5) ⟨7, by decide⟩ * 9,
        ⟨s0 ^^^ s1 ^^^ s3, s0 ^^^ s1 ^^^ s2, s0 ^^^ s2 ^^^ (s1 <<< 17), rotl64 (s1 ^^^ s3) ⟨45, by decide⟩⟩)

/-- 41_next.md R93: the state part is linear over GF(2), the output is not. -/
def Obligations.NextStateIsLinear : Prop :=
  (∀ a b : Quad, nextState (a.xor b) = (nextState a).xor (nextState b)) ∧
  (∃ a b : Quad, nextOutput (a.xor b) ≠ nextOutput a ^^^ nextOutput b)

/-- 41_next.md R94. -/
def Obligations.NextOutputIsZeroExactlyWhenWordOneIs : Prop :=
  (∀ S : Quad, nextOutput S = 0 ↔ S.w1 = 0) ∧
  nextFn Quad.zero = (0, Quad.zero) ∧
  (∀ n : Nat, nextFn (advance n Quad.zero) = (0, Quad.zero))

/-- 41_next.md R95, the state reading of 90_conflicts.md C1: the least period of every non-zero state is 2^256 - 1, the
non-zero states are one cycle, the state part permutes them, and output values may repeat within the period. -/
def Obligations.NonzeroStatesAreOneCycle : Prop :=
  (∀ S : Quad, S ≠ Quad.zero →
    advance period S = S ∧ (∀ n, 0 < n → n < period → advance n S ≠ S) ∧
    (∀ m n, m < n → n < m + period → advance m S ≠ advance n S)) ∧
  (∀ S T : Quad, S ≠ Quad.zero → T ≠ Quad.zero → ∃ n, n < period ∧ advance n S = T) ∧
  Set.BijOn nextState {S | S ≠ Quad.zero} {S | S ≠ Quad.zero} ∧
  (∃ S : Quad, S ≠ Quad.zero ∧ ∃ m n, m < n ∧ n < period ∧
    nextOutput (advance m S) = nextOutput (advance n S))

/-! The sub-block jump_advance_engine -/

/-- 42_jump.md R111. -/
def Obligations.JumpWithIsAPolynomialInNext : Prop :=
  ∀ C S : Quad,
    jumpWith C S = xorAll (((List.range 256).filter fun j => C.bit j).map fun j => advance j S)

/-- 42_jump.md R118 items 1 to 3. -/
def Obligations.JumpWithIsLinearInStateAndConstant : Prop :=
  (∀ C S T : Quad, jumpWith C (S.xor T) = (jumpWith C S).xor (jumpWith C T)) ∧
  (∀ C D S : Quad, jumpWith (C.xor D) S = (jumpWith C S).xor (jumpWith D S)) ∧
  (∀ C S : Quad, jumpWith C Quad.zero = Quad.zero ∧ jumpWith Quad.zero S = Quad.zero)

/-- 42_jump.md R118 items 4 and 5. -/
def Obligations.JumpWithUnitConstantsAndCommutation : Prop :=
  (∀ (j : Nat) (S : Quad), j < 256 → jumpWith (unitConstant j) S = advance j S) ∧
  (∀ C S : Quad, jumpWith C (nextState S) = nextState (jumpWith C S))

/-- 42_jump.md R115, and the two-jump law of R118 item 6. -/
def Obligations.JumpDistancesAreTwoToThe128And192 : Prop :=
  ∀ S : Quad,
    jumpWith Config.jump S = advance (2 ^ 128) S ∧
    jumpWith Config.longJump S = advance (2 ^ 192) S ∧
    jumpWith Config.jump (jumpWith Config.jump S) = advance (2 ^ 129) S

/-- 42_jump.md R119 with the one exception of 90_conflicts.md C5. -/
def Obligations.SubstreamsOverlapOnlyAtTheTop : Prop :=
  ∀ R : Quad, R ≠ Quad.zero →
    (∀ g l : Nat, g < 2 ^ 64 → l < 2 ^ 64 → laneStart g l R = advance (g * 2 ^ 192 + l * 2 ^ 128) R) ∧
    (∀ g l k g' l' k' : Nat,
      g < 2 ^ 64 → l < 2 ^ 64 → k < 2 ^ 128 → g' < 2 ^ 64 → l' < 2 ^ 64 → k' < 2 ^ 128 →
      (advance k (laneStart g l R) = advance k' (laneStart g' l' R) ↔
        (g = g' ∧ l = l' ∧ k = k') ∨
        (g = 2 ^ 64 - 1 ∧ l = 2 ^ 64 - 1 ∧ k = 2 ^ 128 - 1 ∧ g' = 0 ∧ l' = 0 ∧ k' = 0) ∨
        (g' = 2 ^ 64 - 1 ∧ l' = 2 ^ 64 - 1 ∧ k' = 2 ^ 128 - 1 ∧ g = 0 ∧ l = 0 ∧ k = 0)))

/-- The engine of 42_jump.md R114 with the registers of 10_state.md R28, one constant bit a tick (in-order, as every
schedule of log entry 8 takes them): after `k` ticks it stands at bit `k` with `M^k(S)`, and after 256 its accumulator is `JumpWith`. -/
def Obligations.EngineComputesJumpWith : Prop :=
  ∀ (sel : BitVec 1) (S : Quad),
    (∀ k : Nat, k ≤ 256 →
      (ticks k (startEngine sel S)).work = advance k S ∧
      (ticks k (startEngine sel S)).idx.toNat = k % 256 ∧
      (ticks k (startEngine sel S)).sel = sel ∧
      (ticks k (startEngine sel S)).busy = 1 ∧
      (ticks k (startEngine sel S)).acc =
        xorAll (((List.range k).filter fun j => (selected sel).bit j).map fun j => advance j S)) ∧
    (ticks 256 (startEngine sel S)).acc = jumpWith (if sel = 0 then Config.jump else Config.longJump) S

/-! The commands -/

/-- 41_next.md R96: encoding, model fault, effect on every field, corner cases, worked example. -/
def Obligations.NextReturnsOutputAndAdvances : Prop :=
  (∀ w : Bus, decode ⟨0x01, w⟩ = .command .next) ∧
  (∀ s : State, s.written = false → exec .next s = .fault .unwrittenState) ∧
  (∀ s : State, s.written = true →
    exec .next s = .next { s with
      S := (nextFn s.S).2, err := 0, rdata := (nextFn s.S).1.setWidth 256, rspValid := 1 }) ∧
  (∀ s t : State, exec .next s = .next t →
    (s.S.w1 = 0 → t.rdata = 0) ∧ (s.S = Quad.zero → t.S = Quad.zero) ∧ t.written = s.written) ∧
  nextFn ⟨1, 2, 3, 4⟩ = (0x2d00, ⟨0x7, 0x0, 0x40002, 0xc00000000000⟩)

/-- 42_jump.md R116: encoding, model fault, effect, corner cases, worked example. -/
def Obligations.JumpAdvancesTheState : Prop :=
  (∀ w : Bus, decode ⟨0x02, w⟩ = .command .jump) ∧
  (∀ s : State, s.written = false → exec .jump s = .fault .unwrittenState) ∧
  (∀ s : State, s.written = true → ∃ t, exec .jump s = .next t ∧
    t.S = jumpWith Config.jump s.S ∧ t.err = 0 ∧ t.rdata = 0 ∧ t.written = true ∧
    (s.S = Quad.zero → t.S = Quad.zero) ∧ (s.S ≠ Quad.zero → t.S ≠ Quad.zero)) ∧
  jumpWith Config.jump ⟨1, 2, 3, 4⟩ =
    ⟨0x8c7a153956b5f3d1, 0x701f1a713401d85e, 0x6527f66a65469085, 0x8386b786c4408050⟩

/-- 42_jump.md R117: encoding, model fault, effect, corner cases, worked example. -/
def Obligations.LongJumpAdvancesTheState : Prop :=
  (∀ w : Bus, decode ⟨0x03, w⟩ = .command .longJump) ∧
  (∀ s : State, s.written = false → exec .longJump s = .fault .unwrittenState) ∧
  (∀ s : State, s.written = true → ∃ t, exec .longJump s = .next t ∧
    t.S = jumpWith Config.longJump s.S ∧ t.err = 0 ∧ t.rdata = 0 ∧ t.written = true ∧
    (s.S = Quad.zero → t.S = Quad.zero) ∧ (s.S ≠ Quad.zero → t.S ≠ Quad.zero)) ∧
  jumpWith Config.longJump ⟨1, 2, 3, 4⟩ =
    ⟨0x096a8eb71295a400, 0xdbf84991e50f4516, 0x534ee745810d2a0e, 0x31655ca1a2215bf1⟩

/-- 42_jump.md R114, R116, R117: where JUMP and LONG_JUMP complete, with every field they write and leave; the engine is
idle again, what its hidden registers then hold is the schedule's (log entry 8). -/
def Obligations.JumpCommandsWriteTheAccumulator : Prop :=
  ∀ s : State, s.written = true →
    (∃ e : Engine, e.busy = 0 ∧ exec .jump s = .next { s with
      S := jumpWith Config.jump s.S, err := 0, rdata := 0, rspValid := 1, engine := e }) ∧
    (∃ e : Engine, e.busy = 0 ∧ exec .longJump s = .next { s with
      S := jumpWith Config.longJump s.S, err := 0, rdata := 0, rspValid := 1, engine := e })

/-- 43_state_access.md R130, R131: any data, in every state, written or not; nothing of the old `S` is left. -/
def Obligations.LoadStateWritesAllFourWords : Prop :=
  (∀ w : Bus, decode ⟨0x04, w⟩ = .command (loadOfBus w)) ∧
  (∀ (w0 w1 w2 w3 : Word) (s : State),
    exec (.loadState w0 w1 w2 w3) s = .next { s with
      S := ⟨w0, w1, w2, w3⟩, written := true, err := 0, rdata := 0, rspValid := 1 }) ∧
  (∀ (b : Bus) (s : State), perform ⟨0x04, b⟩ s = .next { s with
      S := ⟨b.extractLsb' 0 64, b.extractLsb' 64 64, b.extractLsb' 128 64, b.extractLsb' 192 64⟩
      written := true, err := 0, rdata := 0, rspValid := 1 }) ∧
  (∀ s : State, ∃ t, perform ⟨0x04, 0⟩ s = .next t ∧ t.S = Quad.zero ∧ t.written = true ∧ t.err = 0) ∧
  (∀ s : State, ∃ t,
    perform ⟨0x04, 0x0000000000000004000000000000000300000000000000020000000000000001⟩ s = .next t ∧
      t.S = ⟨1, 2, 3, 4⟩ ∧ t.written = true ∧ t.err = 0 ∧ t.rdata = 0)

/-- 43_state_access.md R132: encoding, model fault, effect on every field, worked example. -/
def Obligations.ReadStateReturnsAllFourWords : Prop :=
  (∀ w : Bus, decode ⟨0x05, w⟩ = .command .readState) ∧
  (∀ s : State, s.written = false → exec .readState s = .fault .unwrittenState) ∧
  (∀ s : State, s.written = true →
    exec .readState s = .next { s with err := 0, rdata := s.S.w3 ++ s.S.w2 ++ s.S.w1 ++ s.S.w0, rspValid := 1 }) ∧
  (∀ s t u : State, exec .readState s = .next t → exec .readState t = .next u → u.rdata = t.rdata ∧ u.S = s.S) ∧
  (∀ s t : State, exec .readState s = .next t → s.S = Quad.zero → t.rdata = 0) ∧
  (∀ (s : State) (w v : Bus), ∃ t,
    andThen (perform ⟨0x04, 0x0000000000000004000000000000000300000000000000020000000000000001⟩ s)
      (fun u => andThen (perform ⟨0x01, w⟩ u) (perform ⟨0x05, v⟩)) = .next t ∧
    t.rdata = 0x0000c00000000000000000000004000200000000000000000000000000000007)

/-- 43_state_access.md R133, from every state. -/
def Obligations.LoadThenReadReturnsTheData : Prop :=
  ∀ (v w : Bus) (s : State), ∃ t,
    andThen (perform ⟨0x04, v⟩ s) (perform ⟨0x05, w⟩) = .next t ∧ t.rdata = v ∧ t.err = 0

/-- 20_memory.md R46, row by row: what reads `S`, what writes it, what is idempotent. -/
def Obligations.SideEffectsAreAsTabled : Prop :=
  (∀ (b : Bus) (s t : State) (q : Quad), perform ⟨0x04, b⟩ s = .next t →
    perform ⟨0x04, b⟩ { s with S := q } = .next t ∧ perform ⟨0x04, b⟩ t = .next t) ∧
  (∀ (w : Bus) (s t : State), perform ⟨0x05, w⟩ s = .next t →
    t.S = s.S ∧ perform ⟨0x05, w⟩ t = .next t) ∧
  (∀ (c : Command) (s t : State), (∃ why, decode c = .illegal why) → perform c s = .next t →
    t.S = s.S ∧ perform c t = .next t ∧
    ∀ q : Quad, perform c { s with S := q } = .next { t with S := q }) ∧
  (∃ (s t u : State) (b : Bus), perform ⟨0x04, b⟩ s = .next t ∧ t.S ≠ s.S ∧
    perform ⟨0x05, 0⟩ t = .next u ∧ ∃ (q : Quad) (v : State),
      perform ⟨0x05, 0⟩ { t with S := q } = .next v ∧ u.rdata ≠ v.rdata) ∧
  (∀ cmd : BitVec 8, cmd = 0x01 ∨ cmd = 0x02 ∨ cmd = 0x03 →
    ∃ s t u : State, perform ⟨cmd, 0⟩ s = .next t ∧ perform ⟨cmd, 0⟩ t = .next u ∧ t.S ≠ s.S ∧ u.S ≠ t.S ∧
      ∃ (q : Quad) (v : State), perform ⟨cmd, 0⟩ { s with S := q } = .next v ∧ v.S ≠ t.S)

/-- What each command leaves unchanged when it answers a next state. The core has no memory (20_memory.md R40), so no
clause is about memory. The `rsp_valid` pulse and the response registers are written by every command (10_state.md R24,
R27); JUMP and LONG_JUMP also use the hidden engine. -/
def Obligations.CommandsChangeNothingElse : Prop :=
  ∀ s t : State,
    (exec .next s = .next t →
      t.written = s.written ∧ t.cmdReady = s.cmdReady ∧ t.engine = s.engine ∧ t.faultMark = s.faultMark ∧
      t.inputs = s.inputs ∧ t.draws = s.draws) ∧
    (∀ i : Instr, i = .jump ∨ i = .longJump → exec i s = .next t →
      t.written = s.written ∧ t.cmdReady = s.cmdReady ∧ t.faultMark = s.faultMark ∧
      t.inputs = s.inputs ∧ t.draws = s.draws) ∧
    (∀ w0 w1 w2 w3 : Word, exec (.loadState w0 w1 w2 w3) s = .next t →
      t.cmdReady = s.cmdReady ∧ t.engine = s.engine ∧ t.faultMark = s.faultMark ∧
      t.inputs = s.inputs ∧ t.draws = s.draws) ∧
    (exec .readState s = .next t →
      t.S = s.S ∧ t.written = s.written ∧ t.cmdReady = s.cmdReady ∧ t.engine = s.engine ∧
      t.faultMark = s.faultMark ∧ t.inputs = s.inputs ∧ t.draws = s.draws)

/-! Responses, errors and model faults -/

/-- 10_state.md R25. -/
def Obligations.ResponseDataHasItsLayout : Prop :=
  ∀ (c : Command) (s t : State), perform c s = .next t →
    (decode c = .command .next →
      t.rdata.extractLsb' 64 192 = 0 ∧ t.rdata.extractLsb' 0 64 = nextOutput s.S) ∧
    (decode c = .command .jump ∨ decode c = .command .longJump ∨ decode c = .command (loadOfBus c.wdata) →
      t.rdata = 0) ∧
    (decode c = .command .readState →
      t.rdata.extractLsb' 192 64 = s.S.w3 ∧ t.rdata.extractLsb' 128 64 = s.S.w2 ∧
      t.rdata.extractLsb' 64 64 = s.S.w1 ∧ t.rdata.extractLsb' 0 64 = s.S.w0) ∧
    ((∃ why, decode c = .illegal why) → t.rdata = 0)

/-- 60_exceptions.md R140: in every state, written or not, and whatever the word and its data were. -/
def Obligations.IllegalCommandOnlyResponds : Prop :=
  (∀ (c : Command) (s : State), (∃ why, decode c = .illegal why) →
    perform c s = .next { s with err := 1, rdata := 0, rspValid := 1 }) ∧
  (∀ (c d : Command) (s : State), (∃ why, decode c = .illegal why) → (∃ why, decode d = .illegal why) →
    perform c s = perform d s) ∧
  (∀ (c d : Command) (s t : State) (i : Instr), (∃ why, decode c = .illegal why) → decode d = .command i →
    andThen (perform c s) (perform d) = .next t → t.err = 0)

/-- 60_exceptions.md R141: the table of error causes. -/
def Obligations.ErrReportsExactlyTheIllegalCommands : Prop :=
  ∀ (c : Command) (s t : State), perform c s = .next t →
    (t.err = 1 ↔ ∃ why, decode c = .illegal why) ∧
    (t.err = 0 ↔ ∃ i, decode c = .command i) ∧
    (t.err = 1 → t.rdata = 0)

/-- 60_exceptions.md R143: exactly these four commands fault, exactly while `S` is unwritten, and the instance keeps
`S`, `ERR` and `RDATA` with the fault recorded (what else it keeps is in `OutcomesHaveTheirPriority`). -/
def Obligations.UnwrittenStateFaultsTheReaders : Prop :=
  (∀ (c : Command) (s : State), s.written = false →
    (decode c = .command .next ∨ decode c = .command .jump ∨ decode c = .command .longJump ∨
      decode c = .command .readState) →
    perform c s = .fault .unwrittenState ∧
    (settle s (perform c s)).S = s.S ∧ (settle s (perform c s)).err = s.err ∧
    (settle s (perform c s)).rdata = s.rdata ∧ (settle s (perform c s)).faultMark = some .unwrittenState) ∧
  (∀ (c : Command) (s : State) (f : Fault), perform c s = .fault f →
    s.written = false ∧ f = .unwrittenState ∧
    (decode c = .command .next ∨ decode c = .command .jump ∨ decode c = .command .longJump ∨
      decode c = .command .readState))

/-- 60_exceptions.md R142: the mark is never cleared, the reason is always the same, and a rotate amount outside the
domain is a refusal of `rotl64` that no command reaches (no command is refused). -/
def Obligations.FaultMarkIsNeverCleared : Prop :=
  (∀ (s : State) (f : Fault), s.faultMark = some f →
    (∀ i : HostInput, issue i s = .fault f) ∧ step s = .fault f ∧
    (∀ is : List HostInput, (is.foldl laneAfter s).faultMark = some f ∧ (is.foldl laneAfter s).S = s.S ∧
      (is.foldl laneAfter s).err = s.err ∧ (is.foldl laneAfter s).rdata = s.rdata)) ∧
  (∀ (i : HostInput) (s : State) (f : Fault), issue i s = .fault f →
    f = .unwrittenState ∧ (laneAfter s i).faultMark = some f) ∧
  (∀ (i : HostInput) (s : State) (r : Refusal), issue i s ≠ .refused r) ∧
  (∀ (x : Word) (k : Nat), k = 0 ∨ 64 ≤ k → rotl64? x k = none)

/-- Every input of a host, with every field of its answer: reset between commands and during one (70_reset_and_hazards.md
R160, R162; the contents of `S` and of the idle engine and the draw number are whatever they are, log entry 2), the idle
cycle (60_exceptions.md R152), and a command, by the order illegal, unwritten, its own rule (R145). That a command is accepted while a pulse is still up, and that `cmd_ready` and the pulse are low while it is
performed and `cmd_ready` in its answer, and up and over after an idle cycle, is 20_memory.md R45 as log entry 7 (DEDUCED) reads it; that a faulted instance
keeps all it held before the acceptance but the mark is log entry 14 (DESIGN CHOICE). -/
def Obligations.OutcomesHaveTheirPriority : Prop :=
  ∀ s : State, s.faultMark = none →
    (∀ i : HostInput, (i = .reset ∨ ∃ c, i = .resetDuring c) →
      ∃ (q : Quad) (e : Engine) (n : Nat), e.busy = 0 ∧ issue i s = .next { s with
        S := q, written := false, err := 0, rdata := 0, cmdReady := 1, rspValid := 0, engine := e, draws := n }) ∧
    issue .idle s = .next { s with cmdReady := 1, rspValid := 0 } ∧
    (∀ c : Command, (∃ why, decode c = .illegal why) →
      issue (.command c) s = .next { s with err := 1, rdata := 0, cmdReady := 0, rspValid := 1 }) ∧
    (∀ (c : Command) (i : Instr), decode c = .command i →
      (s.written = false → (∀ w0 w1 w2 w3, i ≠ .loadState w0 w1 w2 w3) →
        issue (.command c) s = .fault .unwrittenState ∧
        laneAfter s (.command c) = { s with faultMark := some .unwrittenState }) ∧
      (s.written = true ∨ (∃ w0 w1 w2 w3, i = .loadState w0 w1 w2 w3) →
        issue (.command c) s = exec i { s with cmdReady := 0, rspValid := 0 } ∧
        ∃ t, exec i { s with cmdReady := 0, rspValid := 0 } = .next t))

/-- 10_state.md R22: who sets, clears and leaves the written flag. -/
def Obligations.WrittenFlagFollowsLoadAndReset : Prop :=
  State.reset.written = false ∧
  (∀ s t : State, issue .reset s = .next t → t.written = false) ∧
  (∀ (c : Command) (s t : State), issue (.resetDuring c) s = .next t → t.written = false) ∧
  (∀ s t : State, issue .idle s = .next t → t.written = s.written) ∧
  (∀ (c : Command) (s t : State), issue (.command c) s = .next t →
    (c.cmd = 0x04 → t.written = true) ∧ (c.cmd ≠ 0x04 → t.written = s.written)) ∧
  (∀ (c : Command) (s : State), s.written = false → s.faultMark = none →
    (c.cmd = 0x01 ∨ c.cmd = 0x02 ∨ c.cmd = 0x03 ∨ c.cmd = 0x05) →
    issue (.command c) s = .fault .unwrittenState)

/-- 70_reset_and_hazards.md R164: the all-zero state is kept by every command but LOAD_STATE and reached by no other. -/
def Obligations.AllZeroIsReachedOnlyByLoadingIt : Prop :=
  (∀ (c : Command) (s t : State), c.cmd ≠ 0x04 → perform c s = .next t → (t.S = Quad.zero ↔ s.S = Quad.zero)) ∧
  (∀ (c : Command) (s t : State), s.S = Quad.zero → c.cmd ≠ 0x04 → perform c s = .next t → t.rdata = 0) ∧
  (∀ (b : Bus) (s : State), ∃ t, perform ⟨0x04, b⟩ s = .next t ∧ t.err = 0 ∧ (t.S = Quad.zero ↔ b = 0))

/-! Reset, the step and its order -/

/-- 70_reset_and_hazards.md R160 (values of 10_state.md R34): right after reset, after a reset in a run, and at every
clock edge with `rst = 1`, where `cmd_ready` is 0 and no command is accepted. -/
def Obligations.ResetTakesItsValues : Prop :=
  (State.reset.written = false ∧ State.reset.err = 0 ∧ State.reset.rdata = 0 ∧ State.reset.engine.busy = 0 ∧
    State.reset.rspValid = 0 ∧ State.reset.cmdReady = 1) ∧
  (∀ s : State, s.faultMark = none → ∃ t, issue .reset s = .next t ∧ t.written = false ∧ t.err = 0 ∧
    t.rdata = 0 ∧ t.engine.busy = 0 ∧ t.rspValid = 0 ∧ t.cmdReady = 1) ∧
  (∀ (T : Config.Timing) (p : Pins) (c : CycleState), c.core.faultMark = none → p.rst = 1 →
    (portsOf p c).cmdReady = 0 ∧
    ∃ t, edge T p c = .next ⟨t, none⟩ ∧ t.written = false ∧ t.err = 0 ∧ t.rdata = 0 ∧ t.engine.busy = 0 ∧
      t.rspValid = 0 ∧ ∀ q : Pins, q.rst = 0 → (portsOf q ⟨t, none⟩).cmdReady = 1)

/-- 70_reset_and_hazards.md R162: at whatever age of whatever command, no pulse, the reset values, and a state no reader
may use. -/
def Obligations.ResetAbandonsTheCommandInFlight : Prop :=
  (∀ (T : Config.Timing) (p : Pins) (s : State) (f : Flight), s.faultMark = none → p.rst = 1 →
    ∃ t, edge T p ⟨s, some f⟩ = .next ⟨t, none⟩ ∧ t.rspValid = 0 ∧ t.written = false ∧ t.err = 0 ∧ t.rdata = 0 ∧
      t.engine.busy = 0 ∧ t.cmdReady = 1 ∧
      ∀ d : Command, (d.cmd = 0x01 ∨ d.cmd = 0x02 ∨ d.cmd = 0x03 ∨ d.cmd = 0x05) →
        perform d t = .fault .unwrittenState) ∧
  (∀ (c : Command) (s : State), s.faultMark = none →
    ∃ t, issue (.resetDuring c) s = .next t ∧ t.rspValid = 0 ∧ t.written = false ∧ t.err = 0 ∧ t.rdata = 0 ∧
      t.engine.busy = 0 ∧ t.cmdReady = 1)

/-- One step performs the host's next input: a command that decodes by `exec` of its instruction on the state in which
the command has been accepted (its `cmd_ready` and `rsp_valid` low) and the input taken off the queue, an illegal one by
its response, none by an idle cycle (the queue is the model's own, log entry 5; that a command may follow while a pulse
is still up, and that an idle cycle brings `cmd_ready` back up, is log entry 7, DEDUCED). Queued idle cycles and resets
are in `RunComposesCommandsInOrder`. -/
def Obligations.StepPerformsTheNextInput : Prop :=
  ∀ s : State, s.faultMark = none →
    (∀ (c : Command) (i : Instr) (rest : List HostInput), s.inputs = .command c :: rest → decode c = .command i →
      step s = exec i { s with inputs := rest, cmdReady := 0, rspValid := 0 }) ∧
    (∀ (c : Command) (rest : List HostInput), s.inputs = .command c :: rest → (∃ why, decode c = .illegal why) →
      step s = .next { s with inputs := rest, err := 1, rdata := 0, cmdReady := 0, rspValid := 1 }) ∧
    (s.inputs = [] → step s = .next { s with cmdReady := 1, rspValid := 0 }) ∧
    (∀ nbits w : Nat, ∀ i, decodeTableWord nbits w = some i →
      step (s.withFetchWord nbits w) = exec i { s with cmdReady := 0, rspValid := 0 })

/-- A run of the machine over the host's queue takes one input off it a step (the queue is the model's own, log entry 5)
and is the composition of the commands' rules in order (20_memory.md R47). -/
def Obligations.RunComposesCommandsInOrder : Prop :=
  (∀ (is rest : List HostInput) (s : State),
    Sys2Proof.core.run is.length { s with inputs := is ++ rest } = issueAll is { s with inputs := rest }) ∧
  (∀ (is js : List HostInput) (s : State),
    issueAll (is ++ js) s = andThen (issueAll is s) (issueAll js)) ∧
  (∀ (c : Command) (cs : List Command) (s t : State), s.faultMark = none →
    perform c (accept s) = .next t →
    issueAll ((c :: cs).map HostInput.command) s = issueAll (cs.map HostInput.command) t)

/-- What holds between two commands (`State.settled`) is kept by every step; that `cmd_ready` is down exactly while the
pulse is up is DEDUCED from 20_memory.md R45, log entry 7. -/
def Obligations.EveryStepKeepsTheInstanceSettled : Prop :=
  ∀ s t : State, s.settled → step s = .next t → t.settled

/-- The state right after reset is settled (10_state.md R34; log entry 7 as above). -/
def Obligations.ResetStateIsSettled : Prop := State.reset.settled

/-- The seeded condition is kept by every step whose input is neither a reset nor a load (70_reset_and_hazards.md R163,
R164), and a seeded instance answers every such command with a next state. -/
def Obligations.SeededInstancesKeepRunning : Prop :=
  ∀ s : State, s.seeded → s.faultMark = none →
    ∀ cs : List Command, (∀ c ∈ cs, c.cmd ≠ 0x04) →
      ∃ t, issueAll (cs.map HostInput.command) s = .next t ∧ t.seeded ∧ t.faultMark = none

/-! What the host cannot observe; lanes and shared instances -/

/-- 10_state.md R22 and R28, 70_reset_and_hazards.md R161: neither the hidden engine nor the contents of an unwritten
`S` reaches any outcome, so no reset value the model names matters (log entries 1, 2, 3, 8). -/
def Obligations.HiddenContentsAreNeverObserved : Prop :=
  (∀ s t : State, Alike s t → ∀ is : List HostInput, AlikeResult (issueAll is s) (issueAll is t)) ∧
  (∀ (s : State) (q : Quad) (e : Engine), s.written = false → Alike s { s with S := q, engine := e })

/-- 20_memory.md R48: the responses depend only on the commands since the last reset, and no lane changes another,
whatever the order in time. -/
def Obligations.LanesDoNotInteract : Prop :=
  (∀ (s t : State) (is : List HostInput), s.faultMark = none → t.faultMark = none →
    AlikeResult (issueAll (.reset :: is) s) (issueAll (.reset :: is) t)) ∧
  (∀ (lanes : List State) (es : List (Nat × HostInput)) (k : Nat),
    (runLanes lanes es)[k]? = lanes[k]?.map fun s => (inputsOf k es).foldl laneAfter s)

/-- 20_memory.md R50: every interleaving of two hosts' whole commands, equal ones included, is an arbiter's stream, and
every stream is an interleaving of what each host has been granted, in that host's own order. -/
def Obligations.ArbiterAdmitsEveryInterleaving : Prop :=
  ∀ xs ys : List HostInput,
    (∀ zs : List HostInput, Interleaving xs ys zs → ∃ gs, arbitrate gs xs ys = zs) ∧
    (∀ gs : List Bool, ∃ xs' ys' : List HostInput, xs' <+: xs ∧ ys' <+: ys ∧
      Interleaving xs' ys' (arbitrate gs xs ys))

/-! Clock edges -/

/-- A command presented to an idle instance completes after exactly its latency (20_memory.md R45,
70_reset_and_hazards.md R170), whatever the pins do but reset and whatever the schedule, with the outcome of the
command-level step. How the edges of a latency are counted and at which edge a model fault is raised is log entry 9, the
latency of an illegal command log entry 10, the schedules log entry 8. -/
def Obligations.ClockEdgesRefineTheStep : Prop :=
  ∀ (T : Config.Timing) (c : Command) (s : State) (ps : List Pins), s.faultMark = none → s.cmdReady = 1 →
    (∀ p ∈ ps, p.rst = 0) → ps.length + 1 = latency T c →
    edges T (presenting c :: ps) ⟨s, none⟩ = atRest (issue (.command c) s)

/-- Until then `cmd_ready` is 0, there is no pulse, and the host sees the old responses (20_memory.md R45). That the
command is still in flight at every edge before rests on log entries 9 and 10, that `S` is unchanged meanwhile on
42_jump.md R114 and log entries 8 and 9. -/
def Obligations.NothingIsObservedBeforeCompletion : Prop :=
  ∀ (T : Config.Timing) (c : Command) (s : State) (ps : List Pins), s.faultMark = none → s.cmdReady = 1 →
    (∀ p ∈ ps, p.rst = 0) → ps.length + 1 < latency T c →
    ∃ t f, edges T (presenting c :: ps) ⟨s, none⟩ = .next ⟨t, some f⟩ ∧ f.command = c ∧
      t.cmdReady = 0 ∧ t.rspValid = 0 ∧ t.S = s.S ∧ t.written = s.written ∧ t.err = s.err ∧ t.rdata = s.rdata

/-- Without reset, an edge that brings no completion pulse leaves `ERR` and `RDATA` alone (10_state.md R24,
70_reset_and_hazards.md R166), and `S` and `S_written` as well: of a jump in flight because `S` is written once, at the
end (42_jump.md R114), of the other commands by the model's choice, log entries 8 and 9. -/
def Obligations.ResponsesHoldUntilTheNextCompletion : Prop :=
  ∀ (T : Config.Timing) (p : Pins) (c d : CycleState), p.rst = 0 → edge T p c = .next d → d.core.rspValid = 0 →
    d.core.err = c.core.err ∧ d.core.rdata = c.core.rdata ∧ d.core.S = c.core.S ∧
    d.core.written = c.core.written

/-- Any number of edges with `cmd_valid = 0` leaves an idle instance as it is (60_exceptions.md R152), but for the pulse
being over and `cmd_ready` up after the first (DEDUCED, log entry 7). An edge with `cmd_valid = 1` and `cmd_ready = 0` is
in `ResponsesHoldUntilTheNextCompletion`. -/
def Obligations.IdleInstanceHolds : Prop :=
  ∀ (T : Config.Timing) (s : State) (ps : List Pins), s.faultMark = none → (∀ p ∈ ps, p.rst = 0 ∧ p.cmdValid = 0) →
    ps ≠ [] → edges T ps ⟨s, none⟩ = .next ⟨{ s with cmdReady := 1, rspValid := 0 }, none⟩

/-- 00_scope.md R6, 70_reset_and_hazards.md R170: the five latencies may be any numbers that are at least 1, and are at
least that; a design of one bit per edge takes one at each of its first 256 edges and has `LAT_JUMP = LAT_LONG_JUMP`, at
least 256. The schedules are log entry 8, the latency of an illegal command log entry 10. -/
def Obligations.LatenciesAreOpenFromOneOn : Prop :=
  (∀ (T : Config.Timing) (c : Command), 1 ≤ latency T c) ∧
  (∀ a b c d e : Nat, 1 ≤ a → 1 ≤ b → 1 ≤ c → 1 ≤ d → 1 ≤ e → ∃ T : Config.Timing,
    (∀ w, latency T ⟨0x01, w⟩ = a) ∧ (∀ w, latency T ⟨0x02, w⟩ = b) ∧ (∀ w, latency T ⟨0x03, w⟩ = c) ∧
    (∀ w, latency T ⟨0x04, w⟩ = d) ∧ (∀ w, latency T ⟨0x05, w⟩ = e)) ∧
  (∀ (T : Config.Timing) (extra : Nat), T.jumps = .oneBitPerEdge extra →
    Config.latJump T = Config.latLongJump T ∧ 256 ≤ Config.latJump T ∧
    ∀ (c : Command) (k : Nat), (decode c = .command .jump ∨ decode c = .command .longJump) → k < 256 →
      bitsDue T ⟨c, k, k⟩ = 1)

/-- 60_exceptions.md R145: reset overrides a command in progress; then the illegal test, which reads neither `S` nor
`S_written`; then the written test; then the command's own rule, which completes. -/
def Obligations.StepTestsInPriorityOrder : Prop :=
  (∀ (T : Config.Timing) (p : Pins) (s : State) (f : Flight), s.faultMark = none → p.rst = 1 →
    ∃ t, edge T p ⟨s, some f⟩ = .next ⟨t, none⟩ ∧ t.written = false ∧ t.err = 0 ∧ t.rdata = 0 ∧ t.engine.busy = 0) ∧
  (∀ (c : Command) (s : State), (∃ why, decode c = .illegal why) →
    ∃ t, perform c s = .next t ∧ t.err = 1 ∧ t.rdata = 0 ∧ t.S = s.S ∧ t.written = s.written ∧ t.engine = s.engine ∧
      ∀ (q : Quad) (b : Bool), perform c { s with S := q, written := b } = .next { t with S := q, written := b }) ∧
  (∀ (c : Command) (s : State) (i : Instr), decode c = .command i →
    (s.written = false → (∀ w0 w1 w2 w3, i ≠ .loadState w0 w1 w2 w3) → perform c s = .fault .unwrittenState) ∧
    (s.written = true ∨ (∃ w0 w1 w2 w3, i = .loadState w0 w1 w2 w3) →
      perform c s = exec i s ∧ ∃ t, exec i s = .next t))
end

