-- ==== Sys2Proof/Laws/Decode.lean ====
section
/-! SUPPORT. What the decoder and the packing do, said once. -/

namespace Sys2Proof

@[simp] theorem decodeWord_one : decodeWord 1#8 = .legal .next := by decide
@[simp] theorem decodeWord_two : decodeWord 2#8 = .legal .jump := by decide
@[simp] theorem decodeWord_three : decodeWord 3#8 = .legal .longJump := by decide
@[simp] theorem decodeWord_four : decodeWord 4#8 = .legal .loadState := by decide
@[simp] theorem decodeWord_five : decodeWord 5#8 = .legal .readState := by decide

/-- The command word of a legal command (30_encoding.md R62). -/
def wordOf : Opcode → BitVec 8
  | .next => 0x01
  | .jump => 0x02
  | .longJump => 0x03
  | .loadState => 0x04
  | .readState => 0x05

theorem decodeWord_legal_iff (cmd : BitVec 8) (op : Opcode) : decodeWord cmd = .legal op ↔ cmd = wordOf op := by
  cases op <;> revert cmd <;> decide +kernel

theorem decodeWord_illegal_of_not_wellFormed (cmd : BitVec 8) (h : wellFormedWord cmd = false) :
    ∃ why, decodeWord cmd = .illegal why := by
  cases hd : decodeWord cmd with
  | illegal why => exact ⟨why, rfl⟩
  | legal op =>
    rw [decodeWord_legal_iff] at hd
    subst hd
    cases op <;> simp [wellFormedWord, tableMatches, tableMask, wordOf] at h

/-- The decoder's answer on a command, by what its word is. -/
theorem decode_command_iff (c : Command) (i : Instr) :
    decode c = .command i ↔ ∃ op, c.cmd = wordOf op ∧ i = withOperand op c.wdata := by
  unfold decode
  cases hd : decodeWord c.cmd with
  | illegal why =>
    refine ⟨fun h => by simp at h, fun ⟨op, h, _⟩ => ?_⟩
    rw [(decodeWord_legal_iff _ _).2 h] at hd
    cases hd
  | legal op =>
    rw [decodeWord_legal_iff] at hd
    constructor
    · intro h
      exact ⟨op, hd, by simpa using h.symm⟩
    · rintro ⟨op', h, rfl⟩
      rw [hd] at h
      cases op <;> cases op' <;> simp_all [wordOf]

theorem decode_illegal_iff (c : Command) (why : IllegalCommand) :
    decode c = .illegal why ↔ decodeWord c.cmd = .illegal why := by
  unfold decode
  cases decodeWord c.cmd <;> simp

@[simp] theorem withOperand_loadState (b : Bus) : withOperand .loadState b = loadOfBus b := rfl

/-- Bit `j` of a packed state, with `j` counted in its word. -/
theorem busOfWords_getLsbD (q : Quad) (j : Nat) (h : j < 64) :
    (busOfWords q).getLsbD j = q.w0.getLsbD j ∧ (busOfWords q).getLsbD (64 + j) = q.w1.getLsbD j ∧
    (busOfWords q).getLsbD (128 + j) = q.w2.getLsbD j ∧ (busOfWords q).getLsbD (192 + j) = q.w3.getLsbD j := by
  simp only [busOfWords, BitVec.getLsbD_append]
  refine ⟨by simp [h], ?_, ?_, ?_⟩
  · simp [show ¬(64 + j < 64) by omega, show 64 + j - 64 = j by omega, h]
  · simp [show ¬(128 + j < 64) by omega, show ¬(128 + j - 64 < 64) by omega,
      show 128 + j - 64 - 64 = j by omega, h]
  · simp [show ¬(192 + j < 64) by omega, show ¬(192 + j - 64 < 64) by omega,
      show ¬(192 + j - 64 - 64 < 64) by omega, show 192 + j - 64 - 64 - 64 = j by omega]

end Sys2Proof
end

