-- ==== Sys2Proof/Laws/State.lean ====
section
/-! SUPPORT. One lemma per field per update of the state, each true by unfolding the update once. -/

namespace Sys2Proof.Machine

variable (s : State)

@[simp] theorem accept_S : (accept s).S = s.S := rfl
@[simp] theorem accept_written : (accept s).written = s.written := rfl
@[simp] theorem accept_err : (accept s).err = s.err := rfl
@[simp] theorem accept_rdata : (accept s).rdata = s.rdata := rfl
@[simp] theorem accept_cmdReady : (accept s).cmdReady = 0 := rfl
@[simp] theorem accept_rspValid : (accept s).rspValid = 0 := rfl
@[simp] theorem accept_engine : (accept s).engine = s.engine := rfl
@[simp] theorem accept_faultMark : (accept s).faultMark = s.faultMark := rfl
@[simp] theorem accept_inputs : (accept s).inputs = s.inputs := rfl
@[simp] theorem accept_draws : (accept s).draws = s.draws := rfl

@[simp] theorem respond_S (e : BitVec 1) (d : Bus) : (respond e d s).S = s.S := rfl
@[simp] theorem respond_written (e : BitVec 1) (d : Bus) : (respond e d s).written = s.written := rfl
@[simp] theorem respond_err (e : BitVec 1) (d : Bus) : (respond e d s).err = e := rfl
@[simp] theorem respond_rdata (e : BitVec 1) (d : Bus) : (respond e d s).rdata = d := rfl
@[simp] theorem respond_cmdReady (e : BitVec 1) (d : Bus) : (respond e d s).cmdReady = s.cmdReady := rfl
@[simp] theorem respond_rspValid (e : BitVec 1) (d : Bus) : (respond e d s).rspValid = 1 := rfl
@[simp] theorem respond_engine (e : BitVec 1) (d : Bus) : (respond e d s).engine = s.engine := rfl
@[simp] theorem respond_faultMark (e : BitVec 1) (d : Bus) : (respond e d s).faultMark = s.faultMark := rfl
@[simp] theorem respond_inputs (e : BitVec 1) (d : Bus) : (respond e d s).inputs = s.inputs := rfl
@[simp] theorem respond_draws (e : BitVec 1) (d : Bus) : (respond e d s).draws = s.draws := rfl

@[simp] theorem writeS_S (q : Quad) : (writeS q s).S = q := rfl
@[simp] theorem writeS_written (q : Quad) : (writeS q s).written = s.written := rfl
@[simp] theorem writeS_err (q : Quad) : (writeS q s).err = s.err := rfl
@[simp] theorem writeS_rdata (q : Quad) : (writeS q s).rdata = s.rdata := rfl
@[simp] theorem writeS_cmdReady (q : Quad) : (writeS q s).cmdReady = s.cmdReady := rfl
@[simp] theorem writeS_rspValid (q : Quad) : (writeS q s).rspValid = s.rspValid := rfl
@[simp] theorem writeS_engine (q : Quad) : (writeS q s).engine = s.engine := rfl
@[simp] theorem writeS_faultMark (q : Quad) : (writeS q s).faultMark = s.faultMark := rfl
@[simp] theorem writeS_inputs (q : Quad) : (writeS q s).inputs = s.inputs := rfl
@[simp] theorem writeS_draws (q : Quad) : (writeS q s).draws = s.draws := rfl

@[simp] theorem illegalCommand_S : (illegalCommand s).S = s.S := rfl
@[simp] theorem illegalCommand_written : (illegalCommand s).written = s.written := rfl
@[simp] theorem illegalCommand_err : (illegalCommand s).err = 1 := rfl
@[simp] theorem illegalCommand_rdata : (illegalCommand s).rdata = 0 := rfl
@[simp] theorem illegalCommand_cmdReady : (illegalCommand s).cmdReady = s.cmdReady := rfl
@[simp] theorem illegalCommand_rspValid : (illegalCommand s).rspValid = 1 := rfl
@[simp] theorem illegalCommand_engine : (illegalCommand s).engine = s.engine := rfl
@[simp] theorem illegalCommand_faultMark : (illegalCommand s).faultMark = s.faultMark := rfl
@[simp] theorem illegalCommand_inputs : (illegalCommand s).inputs = s.inputs := rfl
@[simp] theorem illegalCommand_draws : (illegalCommand s).draws = s.draws := rfl

@[simp] theorem idleCycle_S : (idleCycle s).S = s.S := rfl
@[simp] theorem idleCycle_written : (idleCycle s).written = s.written := rfl
@[simp] theorem idleCycle_err : (idleCycle s).err = s.err := rfl
@[simp] theorem idleCycle_rdata : (idleCycle s).rdata = s.rdata := rfl
@[simp] theorem idleCycle_cmdReady : (idleCycle s).cmdReady = 1 := rfl
@[simp] theorem idleCycle_rspValid : (idleCycle s).rspValid = 0 := rfl
@[simp] theorem idleCycle_engine : (idleCycle s).engine = s.engine := rfl
@[simp] theorem idleCycle_faultMark : (idleCycle s).faultMark = s.faultMark := rfl
@[simp] theorem idleCycle_inputs : (idleCycle s).inputs = s.inputs := rfl
@[simp] theorem idleCycle_draws : (idleCycle s).draws = s.draws := rfl

@[simp] theorem resetCore_S : (resetCore s).S = Config.freeS s.draws := rfl
@[simp] theorem resetCore_written : (resetCore s).written = false := rfl
@[simp] theorem resetCore_err : (resetCore s).err = 0 := rfl
@[simp] theorem resetCore_rdata : (resetCore s).rdata = 0 := rfl
@[simp] theorem resetCore_cmdReady : (resetCore s).cmdReady = 1 := rfl
@[simp] theorem resetCore_rspValid : (resetCore s).rspValid = 0 := rfl
@[simp] theorem resetCore_faultMark : (resetCore s).faultMark = s.faultMark := rfl
@[simp] theorem resetCore_inputs : (resetCore s).inputs = s.inputs := rfl
@[simp] theorem resetCore_draws : (resetCore s).draws = s.draws + Config.nLanes := rfl
@[simp] theorem resetCore_engine_busy : (resetCore s).engine.busy = 0 := rfl

@[simp] theorem recordFault_S (f : Fault) : (recordFault f s).S = s.S := rfl
@[simp] theorem recordFault_written (f : Fault) : (recordFault f s).written = s.written := rfl
@[simp] theorem recordFault_err (f : Fault) : (recordFault f s).err = s.err := rfl
@[simp] theorem recordFault_rdata (f : Fault) : (recordFault f s).rdata = s.rdata := rfl
@[simp] theorem recordFault_cmdReady (f : Fault) : (recordFault f s).cmdReady = s.cmdReady := rfl
@[simp] theorem recordFault_rspValid (f : Fault) : (recordFault f s).rspValid = s.rspValid := rfl
@[simp] theorem recordFault_engine (f : Fault) : (recordFault f s).engine = s.engine := rfl
@[simp] theorem recordFault_faultMark (f : Fault) : (recordFault f s).faultMark = some f := rfl
@[simp] theorem recordFault_inputs (f : Fault) : (recordFault f s).inputs = s.inputs := rfl
@[simp] theorem recordFault_draws (f : Fault) : (recordFault f s).draws = s.draws := rfl

@[simp] theorem withFetchWord_S (nbits w : Nat) : (s.withFetchWord nbits w).S = s.S := rfl
@[simp] theorem withFetchWord_written (nbits w : Nat) : (s.withFetchWord nbits w).written = s.written := rfl
@[simp] theorem withFetchWord_err (nbits w : Nat) : (s.withFetchWord nbits w).err = s.err := rfl
@[simp] theorem withFetchWord_rdata (nbits w : Nat) : (s.withFetchWord nbits w).rdata = s.rdata := rfl
@[simp] theorem withFetchWord_cmdReady (nbits w : Nat) : (s.withFetchWord nbits w).cmdReady = s.cmdReady := rfl
@[simp] theorem withFetchWord_rspValid (nbits w : Nat) : (s.withFetchWord nbits w).rspValid = s.rspValid := rfl
@[simp] theorem withFetchWord_engine (nbits w : Nat) : (s.withFetchWord nbits w).engine = s.engine := rfl
@[simp] theorem withFetchWord_faultMark (nbits w : Nat) : (s.withFetchWord nbits w).faultMark = s.faultMark := rfl
@[simp] theorem withFetchWord_inputs (nbits w : Nat) : (s.withFetchWord nbits w).inputs = .command (tableCommand nbits w) :: s.inputs := rfl
@[simp] theorem withFetchWord_draws (nbits w : Nat) : (s.withFetchWord nbits w).draws = s.draws := rfl

@[simp] theorem reset_written : State.reset.written = false := rfl
@[simp] theorem reset_err : State.reset.err = 0 := rfl
@[simp] theorem reset_rdata : State.reset.rdata = 0 := rfl
@[simp] theorem reset_cmdReady : State.reset.cmdReady = 1 := rfl
@[simp] theorem reset_rspValid : State.reset.rspValid = 0 := rfl
@[simp] theorem reset_engine_busy : State.reset.engine.busy = 0 := rfl
@[simp] theorem reset_faultMark : State.reset.faultMark = none := rfl
@[simp] theorem reset_inputs : State.reset.inputs = [] := rfl

@[simp] theorem startEngine_busy (sel : BitVec 1) (q : Quad) : (startEngine sel q).busy = 1 := rfl
@[simp] theorem startEngine_sel (sel : BitVec 1) (q : Quad) : (startEngine sel q).sel = sel := rfl
@[simp] theorem startEngine_acc (sel : BitVec 1) (q : Quad) : (startEngine sel q).acc = Quad.zero := rfl
@[simp] theorem startEngine_idx (sel : BitVec 1) (q : Quad) : (startEngine sel q).idx = 0 := rfl
@[simp] theorem startEngine_work (sel : BitVec 1) (q : Quad) : (startEngine sel q).work = q := rfl

@[simp] theorem tickEngine_busy (e : Engine) : (tickEngine e).busy = e.busy := rfl
@[simp] theorem tickEngine_sel (e : Engine) : (tickEngine e).sel = e.sel := rfl
@[simp] theorem tickEngine_idx (e : Engine) : (tickEngine e).idx = e.idx + 1 := rfl
@[simp] theorem tickEngine_work (e : Engine) : (tickEngine e).work = nextState e.work := rfl

end Sys2Proof.Machine
end

