-- ==== Sys2Proof/Laws/Ops.lean ====
section
/-! SUPPORT. One lemma per shared operation: everything it can do. Proofs cite these and do not unfold the
operations. -/

namespace Sys2Proof.Machine

/-! Sequencing and the written check -/

@[simp] theorem andThen_next (s : State) (f : State → Result) : andThen (.next s) f = f s := rfl
@[simp] theorem andThen_fault (e : Fault) (f : State → Result) : andThen (.fault e) f = .fault e := rfl
@[simp] theorem andThen_refused (e : Refusal) (f : State → Result) : andThen (.refused e) f = .refused e := rfl

theorem andThen_eq_next_iff (r : Result) (f : State → Result) (t : State) :
    andThen r f = .next t ↔ ∃ s, r = .next s ∧ f s = .next t := by
  cases r <;> simp [andThen]

theorem ifWritten_of_true {s : State} (f : State → Result) (h : s.written = true) : ifWritten s f = f s := by
  simp [ifWritten, h]

theorem ifWritten_of_false {s : State} (f : State → Result) (h : s.written = false) :
    ifWritten s f = .fault .unwrittenState := by
  simp [ifWritten, h]

/-- The written check goes on with the command or stops with the one model fault. -/
theorem ifWritten_cases (s : State) (f : State → Result) :
    (s.written = true ∧ ifWritten s f = f s) ∨ (s.written = false ∧ ifWritten s f = .fault .unwrittenState) := by
  cases h : s.written
  · exact .inr ⟨rfl, ifWritten_of_false f h⟩
  · exact .inl ⟨rfl, ifWritten_of_true f h⟩

/-! Performing a command -/

theorem perform_of_command {c : Command} {i : Instr} (h : decode c = .command i) (s : State) :
    perform c s = exec i s := by
  simp [perform, h]

theorem perform_of_illegal {c : Command} {why : IllegalCommand} (h : decode c = .illegal why) (s : State) :
    perform c s = .next (illegalCommand s) := by
  simp [perform, h]

/-- A command is illegal and responds so, or is one of the five and runs its meaning. -/
theorem perform_cases (c : Command) (s : State) :
    ((∃ why, decode c = .illegal why) ∧ perform c s = .next (illegalCommand s)) ∨
    (c.cmd = 0x01 ∧ decode c = .command .next ∧ perform c s = execNext s) ∨
    (c.cmd = 0x02 ∧ decode c = .command .jump ∧ perform c s = execJump s) ∨
    (c.cmd = 0x03 ∧ decode c = .command .longJump ∧ perform c s = execLongJump s) ∨
    (c.cmd = 0x04 ∧ decode c = .command (loadOfBus c.wdata) ∧
      perform c s = execLoadState (wordsOfBus c.wdata).w0 (wordsOfBus c.wdata).w1 (wordsOfBus c.wdata).w2
        (wordsOfBus c.wdata).w3 s) ∨
    (c.cmd = 0x05 ∧ decode c = .command .readState ∧ perform c s = execReadState s) := by
  cases hd : decode c with
  | illegal why => exact .inl ⟨⟨why, rfl⟩, perform_of_illegal hd s⟩
  | command i =>
    have hp := perform_of_command hd s
    obtain ⟨op, hc, rfl⟩ := (decode_command_iff c i).1 hd
    right
    cases op
    · exact .inl ⟨hc, rfl, hp⟩
    · exact .inr (.inl ⟨hc, rfl, hp⟩)
    · exact .inr (.inr (.inl ⟨hc, rfl, hp⟩))
    · exact .inr (.inr (.inr (.inl ⟨hc, rfl, hp⟩)))
    · exact .inr (.inr (.inr (.inr ⟨hc, rfl, hp⟩)))

/-! Inputs, steps and lanes -/

theorem issue_of_mark {s : State} {f : Fault} (h : s.faultMark = some f) (i : HostInput) : issue i s = .fault f := by
  simp [issue, h]

theorem issue_of_unmarked {s : State} (h : s.faultMark = none) (i : HostInput) : issue i s = takeInput i s := by
  simp [issue, h]

theorem takeInput_command (c : Command) (s : State) : takeInput (.command c) s = perform c (accept s) := rfl
theorem takeInput_idle (s : State) : takeInput .idle s = .next (idleCycle s) := rfl
theorem takeInput_reset (s : State) : takeInput .reset s = .next (resetCore s) := rfl
theorem takeInput_resetDuring (c : Command) (s : State) :
    takeInput (.resetDuring c) s = .next (resetCore (accept s)) := rfl

/-- A step takes the queue's first input off it, or idles. -/
theorem step_cases (s : State) :
    (s.inputs = [] ∧ step s = issue .idle s) ∨
    (∃ i is, s.inputs = i :: is ∧ step s = issue i { s with inputs := is }) := by
  cases h : s.inputs with
  | nil => exact .inl ⟨rfl, by simp [step, nextInput, h]⟩
  | cons i is => exact .inr ⟨i, is, rfl, by simp [step, nextInput, h]⟩

@[simp] theorem issueAll_nil (s : State) : issueAll [] s = .next s := rfl
@[simp] theorem issueAll_cons (i : HostInput) (is : List HostInput) (s : State) :
    issueAll (i :: is) s = andThen (issue i s) (issueAll is) := rfl

/-- A run of the machine behind the host's interface is its first step and the run after it. -/
theorem core_run_zero (s : State) : Sys2Proof.core.run 0 s = .next s := rfl
theorem core_run_succ (k : Nat) (s : State) : Sys2Proof.core.run (k + 1) s = andThen (step s) (Sys2Proof.core.run k) := by
  have unfoldRun : ∀ (M : Host.Core) (k : Nat) (s : M.State), M.run (k + 1) s =
      match M.step s with
      | .next s' => M.run k s'
      | .fault r => .fault r
      | .refused r => .refused r := fun _ _ _ => rfl
  refine (unfoldRun Sys2Proof.core k s).trans ?_
  have hs : Sys2Proof.core.step s = step s := rfl
  rw [hs]
  cases step s <;> rfl

/-- An instance after one input is the next state, or itself with the fault recorded. -/
theorem laneAfter_cases (s : State) (i : HostInput) :
    issue i s = .next (laneAfter s i) ∨ (∃ f, issue i s = .fault f ∧ laneAfter s i = recordFault f s) ∨
    (∃ r, issue i s = .refused r ∧ laneAfter s i = s) := by
  unfold laneAfter
  cases issue i s with
  | next t => exact .inl rfl
  | fault f => exact .inr (.inl ⟨f, rfl, rfl⟩)
  | refused r => exact .inr (.inr ⟨r, rfl, rfl⟩)

/-! The engine and the clock edges -/

@[simp] theorem ticks_zero (e : Engine) : ticks 0 e = e := rfl
@[simp] theorem ticks_succ (n : Nat) (e : Engine) : ticks (n + 1) e = ticks n (tickEngine e) := rfl

/-- The last tick split off. -/
theorem ticks_succ_last (n : Nat) (e : Engine) : ticks (n + 1) e = tickEngine (ticks n e) := by
  induction n generalizing e with
  | zero => rfl
  | succ n ih => exact ih (tickEngine e)

/-- Ticks add up. -/
theorem ticks_add (m n : Nat) (e : Engine) : ticks (m + n) e = ticks n (ticks m e) := by
  induction m generalizing e with
  | zero => rw [Nat.zero_add, ticks_zero]
  | succ m ih => rw [Nat.succ_add, ticks_succ, ticks_succ, ih]

/-- A command that does not use the engine takes no bits. -/
theorem bitsDue_of_none {T : Config.Timing} {f : Flight} (h : engineSel f.command = none) : bitsDue T f = 0 := by
  unfold bitsDue
  rw [h]

/-- No schedule takes more constant bits than there are. -/
theorem bitsDue_le (T : Config.Timing) (f : Flight) : bitsDue T f ≤ Config.jumpSteps - f.bits := by
  unfold bitsDue
  cases engineSel f.command with
  | none => exact Nat.zero_le _
  | some sel =>
    dsimp only
    split
    · exact Nat.min_le_right _ _
    · exact Nat.le_refl _

/-- The completing edge of a JUMP or LONG_JUMP takes all constant bits that are left. -/
theorem bitsDue_of_last {T : Config.Timing} {f : Flight} {sel : BitVec 1} (h : engineSel f.command = some sel)
    (hl : latency T f.command ≤ f.age + 1) : bitsDue T f = Config.jumpSteps - f.bits := by
  unfold bitsDue
  rw [h]
  exact if_neg (Nat.not_lt.2 hl)

/-- An edge with a command in flight either carries it on or completes it. -/
theorem flightEdge_cases (T : Config.Timing) (f : Flight) (s : State) :
    (f.age + 1 < latency T f.command ∧ flightEdge T f s = .next ⟨engineEdge T f s, some (flightOn T f)⟩) ∨
    (latency T f.command ≤ f.age + 1 ∧
      ((∃ t, complete f.command (engineEdge T f s) = .next t ∧ flightEdge T f s = .next ⟨t, none⟩) ∨
        (∃ e, complete f.command (engineEdge T f s) = .fault e ∧ flightEdge T f s = .fault e) ∨
        (∃ e, complete f.command (engineEdge T f s) = .refused e ∧ flightEdge T f s = .refused e))) := by
  by_cases h : f.age + 1 < latency T f.command
  · exact .inl ⟨h, if_pos h⟩
  · refine .inr ⟨Nat.not_lt.1 h, ?_⟩
    unfold flightEdge
    rw [if_neg h]
    cases complete f.command (engineEdge T f s) with
    | next t => exact .inl ⟨t, rfl, rfl⟩
    | fault e => exact .inr (.inl ⟨e, rfl, rfl⟩)
    | refused e => exact .inr (.inr ⟨e, rfl, rfl⟩)

/-- An edge resets, or stops at a mark, or carries the command in flight on, or accepts one, or idles. -/
theorem edge_cases (T : Config.Timing) (p : Pins) (c : CycleState) :
    (∃ f, c.core.faultMark = some f ∧ edge T p c = .fault f) ∨
    (c.core.faultMark = none ∧ p.rst = 1 ∧ edge T p c = .next ⟨resetCore c.core, none⟩) ∨
    (c.core.faultMark = none ∧ p.rst ≠ 1 ∧
      ((∃ f, c.flight = some f ∧ edge T p c = flightEdge T f c.core) ∨
        (c.flight = none ∧ p.cmdValid = 1 ∧ c.core.cmdReady = 1 ∧
          edge T p c = flightEdge T ⟨⟨p.cmd, p.wdata⟩, 0, 0⟩ (acceptCommand ⟨p.cmd, p.wdata⟩ c.core)) ∨
        (c.flight = none ∧ ¬(p.cmdValid = 1 ∧ c.core.cmdReady = 1) ∧
          edge T p c = .next ⟨idleCycle c.core, none⟩))) := by
  cases hm : c.core.faultMark with
  | some f => exact .inl ⟨f, rfl, by simp [edge, hm]⟩
  | none =>
    right
    by_cases hr : p.rst = 1
    · exact .inl ⟨rfl, hr, by simp [edge, hm, hr]⟩
    · refine .inr ⟨rfl, hr, ?_⟩
      cases hf : c.flight with
      | some f => exact .inl ⟨f, rfl, by simp only [edge, hm, hf, if_neg hr]⟩
      | none =>
        right
        by_cases ha : p.cmdValid = 1 ∧ c.core.cmdReady = 1
        · exact .inl ⟨rfl, ha.1, ha.2, by simp only [edge, hm, hf, if_neg hr, if_pos ha]⟩
        · exact .inr ⟨rfl, ha, by simp only [edge, hm, hf, if_neg hr, if_neg ha]⟩

end Sys2Proof.Machine
end

