-- ==== Sys2Proof/Laws/Instructions.lean ====
section
/-! SUPPORT. One equation per meaning: its two outcomes, with the shared operations kept folded. -/

namespace Sys2Proof.Machine

/-- The engine at the completion of a jump: `BUSY` has fallen (10_state.md R28). -/
def finishedEngine (e : Engine) : Engine := { e with busy := 0 }

@[simp] theorem finishedEngine_busy (e : Engine) : (finishedEngine e).busy = 0 := rfl

theorem execNext_eq (s : State) : exec .next s =
    if s.written then
      .next (respond 0 (rdataOfOutput (nextOutput s.S)) (writeS (nextState s.S) s))
    else .fault .unwrittenState := rfl

/-- Both jumps, by the constant they select. -/
theorem runJump_eq (sel : BitVec 1) (s : State) : runJump sel s =
    if s.written then
      .next (respond 0 0 { s with
        S := (ticks 256 (startEngine sel s.S)).acc
        engine := finishedEngine (ticks 256 (startEngine sel s.S)) })
    else .fault .unwrittenState := rfl

theorem execJump_eq (s : State) : exec .jump s = runJump 0 s := rfl

theorem execLongJump_eq (s : State) : exec .longJump s = runJump 1 s := rfl

theorem execLoadState_eq (w0 w1 w2 w3 : Word) (s : State) : exec (.loadState w0 w1 w2 w3) s =
    .next (respond 0 0 { s with S := ⟨w0, w1, w2, w3⟩, written := true }) := rfl

theorem execLoadState_of_bus (b : Bus) (s : State) : exec (loadOfBus b) s =
    .next (respond 0 0 { s with S := wordsOfBus b, written := true }) := rfl

theorem execReadState_eq (s : State) : exec .readState s =
    if s.written then .next (respond 0 (busOfWords s.S) s) else .fault .unwrittenState := rfl

/-- Every meaning answers a next state with `ERR = 0` and the pulse up, or the one model fault. -/
theorem exec_cases (i : Instr) (s : State) :
    (∃ t, exec i s = .next t ∧ t.err = 0 ∧ t.rspValid = 1 ∧ t.cmdReady = s.cmdReady ∧ t.faultMark = s.faultMark ∧
      t.inputs = s.inputs ∧ t.draws = s.draws) ∨
    (s.written = false ∧ exec i s = .fault .unwrittenState) := by
  cases i with
  | next =>
    rw [execNext_eq]
    cases h : s.written
    · exact .inr ⟨rfl, rfl⟩
    · exact .inl ⟨_, rfl, rfl, rfl, rfl, rfl, rfl, rfl⟩
  | jump =>
    rw [execJump_eq, runJump_eq]
    cases h : s.written
    · exact .inr ⟨rfl, rfl⟩
    · exact .inl ⟨_, rfl, rfl, rfl, rfl, rfl, rfl, rfl⟩
  | longJump =>
    rw [execLongJump_eq, runJump_eq]
    cases h : s.written
    · exact .inr ⟨rfl, rfl⟩
    · exact .inl ⟨_, rfl, rfl, rfl, rfl, rfl, rfl, rfl⟩
  | loadState w0 w1 w2 w3 => exact .inl ⟨_, rfl, rfl, rfl, rfl, rfl, rfl, rfl⟩
  | readState =>
    rw [execReadState_eq]
    cases h : s.written
    · exact .inr ⟨rfl, rfl⟩
    · exact .inl ⟨_, rfl, rfl, rfl, rfl, rfl, rfl, rfl⟩

end Sys2Proof.Machine
end

