-- ==== Sys2Proof/Laws/PerInstr.lean ====
section
/-! SUPPORT. A fact for every instruction as syntax: its encoding is a row of the opcode table. -/

namespace Sys2Proof.Laws.EncodedWord

/-- The command word of an instruction matches a row of the opcode table, its reserved bits are 0 (30_encoding.md R60,
R62), and only LOAD_STATE puts anything on `wdata` (30_encoding.md R66). -/
def Statement (i : Instr) : Prop :=
  wellFormedWord (encode i).cmd = true ∧ rsvField (encode i).cmd = 0 ∧
    ((encode i).cmd ≠ 0x04 → (encode i).wdata = 0)

theorem next : Statement .next := by unfold Statement; decide
theorem jump : Statement .jump := by unfold Statement; decide
theorem longJump : Statement .longJump := by unfold Statement; decide
theorem loadState (w0 w1 w2 w3 : Word) : Statement (.loadState w0 w1 w2 w3) := by
  have hw : (encode (.loadState w0 w1 w2 w3)).cmd = 0x04 := rfl
  unfold Statement
  rw [hw]
  exact ⟨by decide, by decide, fun h => absurd rfl h⟩
theorem readState : Statement .readState := by unfold Statement; decide

end Sys2Proof.Laws.EncodedWord
end

