-- ==== Sys2Proof/Tests/Slice0.lean ====
section
/-! SUPPORT. Tests of single steps with the expected values of 95_test_vectors.md, the WellFormed smoke test, and a
witness for the hypotheses of each statement. -/

namespace Sys2Proof.Tests

open Sys2Proof.Machine

/-- An instance just after reset and `load_state 1, 2, 3, 4`, between two commands. -/
def seeded : State := { State.reset with S := ⟨1, 2, 3, 4⟩, written := true }

/-- The same with the all-zero seed. -/
def zeroSeeded : State := { State.reset with written := true }

/-- An instance that carries the fault mark. -/
def marked : State := { State.reset with faultMark := some .unwrittenState }

/-- The command bus of `load_state 1, 2, 3, 4` (95_test_vectors.md P1 row 1). -/
def bus1234 : Bus := 0x0000000000000004000000000000000300000000000000020000000000000001

/-- Input ports that ask for nothing. -/
def quiet : Pins := { rst := 0, cmdValid := 0, cmd := 0, wdata := 0 }

/-- A design of one constant bit per edge, with an illegal command that takes three edges. -/
def oneBit : Config.Timing :=
  { extraNext := 0, extraLoad := 0, extraRead := 0, extraIllegal := 2, jumps := .oneBitPerEdge 0 }

/-- A design that takes 100 bits an edge in two edges of a JUMP, and what is left in the third. -/
def wide : Config.Timing :=
  { extraNext := 0, extraLoad := 0, extraRead := 0, extraIllegal := 0, jumps := .other 2 0 fun _ _ => 100 }

/-- Input ports with reset raised and a command presented in the same cycle. -/
def resetting : Pins := { rst := 1, cmdValid := 1, cmd := 0x01, wdata := 0 }

/-! WellFormed: every check refuses something -/

theorem test_reserved_words_are_ill_formed :
    (wellFormedWord 0x00 || wellFormedWord 0x06 || wellFormedWord 0x07 || wellFormedWord 0x08 ||
      wellFormedWord 0x09 || wellFormedWord 0x81 || wellFormedWord 0xFF) = false := by decide

theorem test_table_words_are_well_formed :
    (wellFormedWord 0x01 && wellFormedWord 0x02 && wellFormedWord 0x03 && wellFormedWord 0x04 &&
      wellFormedWord 0x05) = true := by decide

theorem test_assembler_refuses_wide_words :
    AsmLine.wellFormed (.loadState (2 ^ 64) 0 0 0) = false ∧ AsmLine.wellFormed (.loadState 0 (2 ^ 64) 0 0) = false ∧
    AsmLine.wellFormed (.loadState 0 0 (2 ^ 64) 0) = false ∧ AsmLine.wellFormed (.loadState 0 0 0 (2 ^ 64)) = false ∧
    AsmLine.wellFormed (.seed (2 ^ 64) 0 0 0) = false ∧ AsmLine.wellFormed (.seed 0 (2 ^ 64) 0 0) = false ∧
    AsmLine.wellFormed (.seed 0 0 (2 ^ 64) 0) = false ∧ AsmLine.wellFormed (.seed 0 0 0 (2 ^ 64)) = false := by decide

theorem test_assembler_refuses_wide_raw_commands :
    AsmLine.wellFormed (.rawCmd 256) = false ∧ AsmLine.wellFormed (.rawCmdData 256 0 0 0 0) = false ∧
    AsmLine.wellFormed (.rawCmdData 0 (2 ^ 64) 0 0 0) = false ∧ AsmLine.wellFormed (.rawCmdData 0 0 (2 ^ 64) 0 0) = false ∧
    AsmLine.wellFormed (.rawCmdData 0 0 0 (2 ^ 64) 0) = false ∧
    AsmLine.wellFormed (.rawCmdData 0 0 0 0 (2 ^ 64)) = false := by decide

theorem test_assembler_refuses_skip_zero : AsmLine.wellFormed (.skip 0) = false := by decide

/-! Decode: words written out from the fields of 30_encoding.md R60, `RSV` then `OP` -/

theorem test_decode_next : decode ⟨0b00000#5 ++ 0b001#3, 0⟩ = .command .next := by decide
theorem test_decode_jump : decode ⟨0b00000#5 ++ 0b010#3, 0⟩ = .command .jump := by decide
theorem test_decode_long_jump : decode ⟨0b00000#5 ++ 0b011#3, 0⟩ = .command .longJump := by decide

/-- The `wdata` of 95_test_vectors.md P3 row 1: four different words, the last one low. -/
theorem test_decode_load_state :
    decode ⟨0b00000#5 ++ 0b100#3, 0x00000000000000010000000000000000fedcba98765432100123456789abcdef⟩ =
      .command (.loadState 0x0123456789abcdef 0xfedcba9876543210 0 1) := by decide
theorem test_decode_read_state : decode ⟨0b00000#5 ++ 0b101#3, 0⟩ = .command .readState := by decide

/-- 95_test_vectors.md V4: 0x09 is not a NEXT. -/
theorem test_decode_reserved_bits : decode ⟨0b00001#5 ++ 0b001#3, 0⟩ = .illegal (.reservedBits 0b00001) := by decide
theorem test_decode_reserved_op : decode ⟨0b00000#5 ++ 0b110#3, 0⟩ = .illegal (.reservedOp 0b110) := by decide

theorem test_decode_table_words :
    decodeTableWord 8 0x04 = some (.loadState 0 0 0 0) ∧ decodeTableWord 8 0x05 = some .readState ∧
    decodeTableWord 8 0x06 = none := by decide

/-- The encodings of 95_test_vectors.md P1. -/
theorem test_encode : encode (.loadState 1 2 3 4) = ⟨0x04, bus1234⟩ ∧ encode .readState = ⟨0x05, 0⟩ := by decide

/-! Assembler text (30_encoding.md R66, R67; the lines of 95_test_vectors.md P3) -/

theorem test_parse_seed :
    parseLine "seed 0x0123456789abcdef, 0xfedcba9876543210, 0, 1 ; the seed".toList =
      some (.seed 0x0123456789abcdef 0xfedcba9876543210 0 1) := by decide +kernel
theorem test_parse_raw : parseLine ".cmd 0x09".toList = some (.rawCmd 9) := by decide +kernel
theorem test_parse_case : parseLine "Long_Jump".toList = some .longJump := by decide +kernel
theorem test_parse_refuses_missing_word : parseLine "load_state 1, 2, 3".toList = none := by decide +kernel
theorem test_parse_skip_is_decimal :
    parseLine "skip 3".toList = some (.skip 3) ∧ parseLine "skip 0x3".toList = none := by decide +kernel
theorem test_assemble_program :
    assemble [.seed 1 2 3 4, .skip 2, .readState] =
      some [⟨0x04, bus1234⟩, ⟨0x01, 0⟩, ⟨0x01, 0⟩, ⟨0x05, 0⟩] := by decide +kernel

/-! Rotate (95_test_vectors.md V1 rows 8, 4 and 14) -/

theorem test_rotl_state_site : rotlState 0x0123456789abcdef = 0x79bde02468acf135 := by decide
theorem test_rotl_wraps : rotl64? 0x8000000000000000 1 = some 1 ∧ rotl64? 1 0 = none ∧ rotl64? 1 64 = none := by
  decide

/-! Commands, one step each: what the response registers and `S` hold after it -/

/-- `S`, `ERR` and `RDATA` after an outcome. -/
def seen : Result → Option (Quad × BitVec 1 × Bus)
  | .next t => some (t.S, t.err, t.rdata)
  | .fault _ => none
  | .refused _ => none

/-- The state of 95_test_vectors.md with a given seed. -/
def holding (q : Quad) : State := { zeroSeeded with S := q }

/-- V2 row 1. -/
theorem test_next :
    seen (step (seeded.withFetchWord 8 0x01)) = some (⟨0x7, 0x0, 0x40002, 0xc00000000000⟩, 0, 0x2d00) := by
  decide +kernel

/-- V3 row 8: both products wrap, and bit 63 of word1 is shifted out of `t`. -/
theorem test_next_wraps :
    seen (exec .next (holding ⟨0xffffffffffffffff, 0xffffffffffffffff, 0xffffffffffffffff, 0xffffffffffffffff⟩)) =
      some (⟨0xffffffffffffffff, 0xffffffffffffffff, 0xfffffffffffe0000, 0⟩, 0, 0xffffffffffffedf7) := by
  decide +kernel

/-- V5 row 1. -/
theorem test_jump :
    seen (step (seeded.withFetchWord 8 0x02)) =
      some (⟨0x8c7a153956b5f3d1, 0x701f1a713401d85e, 0x6527f66a65469085, 0x8386b786c4408050⟩, 0, 0) := by
  decide +kernel

/-- V5, the internal-state check of row 1: the working state the jump throws away. -/
theorem test_jump_working_state :
    (ticks 256 (startEngine 0 ⟨1, 2, 3, 4⟩)).work =
      ⟨0x724645a5a9de4809, 0x9d1368c84f47a611, 0x16312d30afa2ac7c, 0x9783f09d6a060ecc⟩ := by decide +kernel

/-- V5 row 3. -/
theorem test_long_jump :
    seen (step (seeded.withFetchWord 8 0x03)) =
      some (⟨0x096a8eb71295a400, 0xdbf84991e50f4516, 0x534ee745810d2a0e, 0x31655ca1a2215bf1⟩, 0, 0) := by
  decide +kernel

/-- V5 row 6. -/
theorem test_long_jump_zero : seen (exec .longJump zeroSeeded) = some (Quad.zero, 0, 0) := by decide +kernel

/-- V7 row 1, on an instance just after reset (V4: performed on an unwritten state). -/
theorem test_load_state :
    seen (perform ⟨0x04, bus1234⟩ State.reset) = some (⟨1, 2, 3, 4⟩, 0, 0) := by decide +kernel

/-- V7 row 4: the all-zero seed is accepted. -/
theorem test_load_state_zero : seen (step (State.reset.withFetchWord 8 0x04)) = some (Quad.zero, 0, 0) := by
  decide +kernel

/-- V7 row 2, its last command. -/
theorem test_read_state : seen (step (seeded.withFetchWord 8 0x05)) = some (⟨1, 2, 3, 4⟩, 0, bus1234) := by
  decide +kernel

/-- V4: READ_STATE on an unwritten state. -/
theorem test_read_state_unwritten : step (State.reset.withFetchWord 8 0x05) = .fault .unwrittenState := rfl

/-- P3 row 3: 0x09 on a written state. -/
theorem test_illegal : seen (step (seeded.withFetchWord 8 0x09)) = some (⟨1, 2, 3, 4⟩, 1, 0) := by decide +kernel

/-- V4: 0x00 on an unwritten state is no model fault. -/
theorem test_illegal_unwritten : ∃ t, perform ⟨0x00, 0⟩ State.reset = .next t ∧ t.err = 1 := ⟨_, rfl, rfl⟩

/-! Clock edges -/

/-- R160: no command is accepted while `rst` is 1. -/
theorem test_no_acceptance_in_reset : (portsOf resetting ⟨seeded, none⟩).cmdReady = 0 := by decide

/-- R114: the bits a schedule of 100 an edge takes at the three edges of a JUMP. -/
theorem test_schedule :
    bitsDue wide ⟨⟨0x02, 0⟩, 0, 0⟩ = 100 ∧ bitsDue wide ⟨⟨0x02, 0⟩, 1, 100⟩ = 100 ∧
    bitsDue wide ⟨⟨0x02, 0⟩, 2, 200⟩ = 56 := by decide

/-! Witnesses: for each statement with hypotheses, a state and operands that meet them, clause by clause -/

theorem witness_OpcodeMapDecodes : ∃ i, decode ⟨0x05, 0⟩ = .command i := ⟨_, rfl⟩

theorem witness_DecoderIsTotalWithFiveCommands :
    rsvField 0x09 ≠ 0 ∧ rsvField 0xFF ≠ 0 ∧
    (rsvField 0x00 = 0 ∧ opField 0x00 = 0b000) ∧ (rsvField 0x01 = 0 ∧ opField 0x01 = 0b001) ∧
    (rsvField 0x02 = 0 ∧ opField 0x02 = 0b010) ∧ (rsvField 0x03 = 0 ∧ opField 0x03 = 0b011) ∧
    (rsvField 0x04 = 0 ∧ opField 0x04 = 0b100) ∧ (rsvField 0x05 = 0 ∧ opField 0x05 = 0b101) ∧
    (rsvField 0x06 = 0 ∧ opField 0x06 = 0b110) ∧ (rsvField 0x07 = 0 ∧ opField 0x07 = 0b111) := by decide

theorem witness_DecodeOfEncodeIsIdentity :
    Instr.wellFormed (.loadState 0 0xffffffffffffffff 2 3) = true := by decide

theorem witness_EncodeOfDecodeKeepsTheCommand :
    decode ⟨0x04, bus1234⟩ = .command (.loadState 1 2 3 4) ∧ decode ⟨0x01, bus1234⟩ = .command .next := by decide

theorem witness_WdataReachesOnlyLoadState : (0x03 : BitVec 8) ≠ 0x04 ∧ (0x05 : BitVec 8) ≠ 0x04 := by decide

theorem witness_AssemblerLinesAreTheirCommands :
    (2 ^ 64 - 1 < 2 ^ 64 ∧ 2 ^ 64 ≤ 2 ^ 64) ∧ (255 < 256 ∧ 256 ≤ 256) ∧ 1 ≤ 1 ∧
    assembleLine (.loadState 0 0 0 (2 ^ 64 - 1)) ≠ none ∧ assembleLine (.loadState 0 0 0 (2 ^ 64)) = none ∧
    assembleLine (.rawCmd 255) = some [⟨0xFF, 0⟩] ∧ assembleLine (.rawCmd 256) = none ∧
    assembleLine (.skip 1) = some [⟨0x01, 0⟩] ∧
    (256 ≤ 256 ∨ 2 ^ 64 ≤ 0) ∧ assembleLine (.rawCmdData 255 0 0 0 0) ≠ none ∧
    assembleLine (.rawCmdData 256 0 0 0 0) = none ∧ assembleLine (.rawCmdData 0 0 0 0 (2 ^ 64)) = none := by decide +kernel

theorem witness_RotateHasItsValueOnItsDomain :
    (1 ≤ 1 ∧ 1 ≤ 63) ∧ (1 ≤ 63 ∧ 63 ≤ 63) ∧ (0 = 0 ∨ 64 ≤ 0) ∧ (64 = 0 ∨ 64 ≤ 64) ∧
    rotl64? 1 63 = some 0x8000000000000000 ∧ rotl64? 1 64 = none := by decide

theorem witness_RotateMovesBits :
    0 < 64 ∧ 63 < 64 ∧ ∃ a b c : RotAmount, c.val = 63 ∧ c.val = a.val + b.val :=
  ⟨by decide, by decide, ⟨1, by decide⟩, ⟨62, by decide⟩, ⟨63, by decide⟩, rfl, rfl⟩

theorem witness_RotateBackGivesTheWord : (1 ≤ 1 ∧ 1 ≤ 63) ∧ (1 ≤ 63 ∧ 63 ≤ 63) := by decide

theorem witness_NonzeroStatesAreOneCycle :
    (⟨0, 0, 0, 1⟩ : Quad) ≠ Quad.zero ∧ (⟨1, 2, 3, 4⟩ : Quad) ≠ Quad.zero ∧ 0 < 1 ∧ 1 < period ∧
    0 < period - 1 ∧ period - 1 < period ∧ period - 1 < 0 + period := by
  decide +kernel

theorem witness_JumpWithUnitConstantsAndCommutation : 0 < 256 ∧ 255 < 256 := by decide

theorem witness_SubstreamsOverlapOnlyAtTheTop :
    (⟨1, 2, 3, 4⟩ : Quad) ≠ Quad.zero ∧ 0 < 2 ^ 64 ∧ 2 ^ 64 - 1 < 2 ^ 64 ∧ 0 < 2 ^ 128 ∧ 2 ^ 128 - 1 < 2 ^ 128 := by
  decide +kernel

theorem witness_EngineComputesJumpWith : 0 ≤ 256 ∧ 256 ≤ 256 := by decide

theorem witness_NextReturnsOutputAndAdvances :
    State.reset.written = false ∧ seeded.written = true ∧
    (∃ t, exec .next zeroSeeded = .next t) ∧ zeroSeeded.S.w1 = 0 ∧ zeroSeeded.S = Quad.zero :=
  ⟨rfl, rfl, ⟨_, rfl⟩, rfl, rfl⟩

theorem witness_JumpAdvancesTheState :
    State.reset.written = false ∧ (seeded.written = true ∧ seeded.S ≠ Quad.zero) ∧
    (zeroSeeded.written = true ∧ zeroSeeded.S = Quad.zero) := by decide

theorem witness_LongJumpAdvancesTheState :
    State.reset.written = false ∧ (seeded.written = true ∧ seeded.S ≠ Quad.zero) ∧
    (zeroSeeded.written = true ∧ zeroSeeded.S = Quad.zero) := by decide

theorem witness_JumpCommandsWriteTheAccumulator : seeded.written = true := rfl

theorem witness_ReadStateReturnsAllFourWords :
    State.reset.written = false ∧ seeded.written = true ∧
    (∃ t u, exec .readState seeded = .next t ∧ exec .readState t = .next u) ∧
    ((∃ t, exec .readState zeroSeeded = .next t) ∧ zeroSeeded.S = Quad.zero) :=
  ⟨rfl, rfl, ⟨_, _, rfl, rfl⟩, ⟨_, rfl⟩, rfl⟩

theorem witness_SideEffectsAreAsTabled :
    (∃ t, perform ⟨0x04, bus1234⟩ State.reset = .next t) ∧ (∃ t, perform ⟨0x05, 0⟩ seeded = .next t) ∧
    ((∃ why, decode ⟨0x00, 0⟩ = .illegal why) ∧ ∃ t, perform ⟨0x00, 0⟩ seeded = .next t) ∧
    (0x01 : BitVec 8) = 0x01 ∧ (0x02 : BitVec 8) = 0x02 ∧ (0x03 : BitVec 8) = 0x03 :=
  ⟨⟨_, rfl⟩, ⟨_, rfl⟩, ⟨⟨_, rfl⟩, _, rfl⟩, rfl, rfl, rfl⟩

theorem witness_CommandsChangeNothingElse :
    (∃ t, exec .next seeded = .next t) ∧ (∃ t, exec .jump seeded = .next t) ∧
    (∃ t, exec .longJump seeded = .next t) ∧ (∃ t, exec (.loadState 1 2 3 4) State.reset = .next t) ∧
    (∃ t, exec .readState seeded = .next t) :=
  ⟨⟨_, rfl⟩, ⟨_, rfl⟩, ⟨_, rfl⟩, ⟨_, rfl⟩, ⟨_, rfl⟩⟩

theorem witness_ResponseDataHasItsLayout :
    (decode ⟨0x01, 0⟩ = .command .next ∧ ∃ t, perform ⟨0x01, 0⟩ seeded = .next t) ∧
    (decode ⟨0x02, 0⟩ = .command .jump ∧ ∃ t, perform ⟨0x02, 0⟩ seeded = .next t) ∧
    (decode ⟨0x03, 0⟩ = .command .longJump ∧ ∃ t, perform ⟨0x03, 0⟩ seeded = .next t) ∧
    (decode ⟨0x04, bus1234⟩ = .command (loadOfBus bus1234) ∧ ∃ t, perform ⟨0x04, bus1234⟩ seeded = .next t) ∧
    (decode ⟨0x05, 0⟩ = .command .readState ∧ ∃ t, perform ⟨0x05, 0⟩ seeded = .next t) ∧
    ((∃ why, decode ⟨0xFF, 0⟩ = .illegal why) ∧ ∃ t, perform ⟨0xFF, 0⟩ seeded = .next t) :=
  ⟨⟨rfl, _, rfl⟩, ⟨rfl, _, rfl⟩, ⟨rfl, _, rfl⟩, ⟨rfl, _, rfl⟩, ⟨rfl, _, rfl⟩, ⟨_, rfl⟩, _, rfl⟩

theorem witness_IllegalCommandOnlyResponds :
    (∃ why, decode ⟨0x00, 0⟩ = .illegal why) ∧ (∃ why, decode ⟨0xFF, bus1234⟩ = .illegal why) ∧
    decode ⟨0x04, bus1234⟩ = .command (.loadState 1 2 3 4) ∧
    (∃ t, andThen (perform ⟨0x00, 0⟩ State.reset) (perform ⟨0x04, bus1234⟩) = .next t) :=
  ⟨⟨_, rfl⟩, ⟨_, rfl⟩, by decide, _, rfl⟩

theorem witness_ErrReportsExactlyTheIllegalCommands :
    (∃ t, perform ⟨0x00, 0⟩ seeded = .next t ∧ t.err = 1) ∧ (∃ t, perform ⟨0x01, 0⟩ seeded = .next t ∧ t.err = 0) :=
  ⟨⟨_, rfl, rfl⟩, ⟨_, rfl, rfl⟩⟩

theorem witness_UnwrittenStateFaultsTheReaders :
    State.reset.written = false ∧ decode ⟨0x01, 0⟩ = .command .next ∧ decode ⟨0x02, 0⟩ = .command .jump ∧
    decode ⟨0x03, 0⟩ = .command .longJump ∧ decode ⟨0x05, 0⟩ = .command .readState ∧
    perform ⟨0x01, 0⟩ State.reset = .fault .unwrittenState :=
  ⟨rfl, rfl, rfl, rfl, rfl, rfl⟩

theorem witness_FaultMarkIsNeverCleared :
    marked.faultMark = some .unwrittenState ∧
    issue (.command ⟨0x05, 0⟩) State.reset = .fault .unwrittenState ∧ (0 = 0 ∨ 64 ≤ 0) ∧ (64 = 0 ∨ 64 ≤ 64) :=
  ⟨rfl, rfl, by decide, by decide⟩

theorem witness_OutcomesHaveTheirPriority :
    State.reset.faultMark = none ∧
    (HostInput.reset = .reset ∧ ∃ c, HostInput.resetDuring ⟨0x02, 0⟩ = .resetDuring c) ∧
    (∃ why, decode ⟨0x07, 0⟩ = .illegal why) ∧
    (decode ⟨0x01, 0⟩ = .command .next ∧ State.reset.written = false ∧
      ∀ w0 w1 w2 w3, Instr.next ≠ .loadState w0 w1 w2 w3) ∧
    (decode ⟨0x01, 0⟩ = .command .next ∧ seeded.faultMark = none ∧ seeded.written = true) ∧
    (decode ⟨0x04, bus1234⟩ = .command (.loadState 1 2 3 4) ∧ State.reset.written = false) :=
  ⟨rfl, ⟨rfl, _, rfl⟩, ⟨_, rfl⟩, ⟨rfl, rfl, by simp⟩, ⟨rfl, rfl, rfl⟩, by decide, rfl⟩

theorem witness_WrittenFlagFollowsLoadAndReset :
    (∃ t, issue .reset seeded = .next t) ∧ (∃ t, issue (.resetDuring ⟨0x02, 0⟩) seeded = .next t) ∧
    (∃ t, issue .idle seeded = .next t) ∧ (∃ t, issue (.command ⟨0x04, bus1234⟩) State.reset = .next t) ∧
    (∃ t, issue (.command ⟨0x00, 0⟩) State.reset = .next t) ∧
    (State.reset.written = false ∧ State.reset.faultMark = none) :=
  ⟨⟨_, rfl⟩, ⟨_, rfl⟩, ⟨_, rfl⟩, ⟨_, rfl⟩, ⟨_, rfl⟩, rfl, rfl⟩

theorem witness_AllZeroIsReachedOnlyByLoadingIt :
    ((0x01 : BitVec 8) ≠ 0x04 ∧ ∃ t, perform ⟨0x01, 0⟩ seeded = .next t) ∧
    (zeroSeeded.S = Quad.zero ∧ ∃ t, perform ⟨0x05, 0⟩ zeroSeeded = .next t) ∧
    ((0x00 : BitVec 8) ≠ 0x04 ∧ ∃ t, perform ⟨0x00, 0⟩ zeroSeeded = .next t) :=
  ⟨⟨by decide, _, rfl⟩, ⟨rfl, _, rfl⟩, by decide, _, rfl⟩

theorem witness_ResetTakesItsValues :
    seeded.faultMark = none ∧ resetting.rst = 1 ∧ quiet.rst = 0 := by decide

theorem witness_ResetAbandonsTheCommandInFlight :
    seeded.faultMark = none ∧ resetting.rst = 1 ∧ (0x05 : BitVec 8) = 0x05 := by decide

theorem witness_StepPerformsTheNextInput :
    seeded.faultMark = none ∧ decode ⟨0x01, 0⟩ = .command .next ∧ (∃ why, decode ⟨0x00, 0⟩ = .illegal why) ∧
    (seeded.withFetchWord 8 0x01).inputs = .command ⟨0x01, 0⟩ :: [] ∧
    (seeded.withFetchWord 8 0x00).inputs = .command ⟨0x00, 0⟩ :: [] ∧ seeded.inputs = [] ∧
    decodeTableWord 8 0x01 = some .next :=
  ⟨rfl, rfl, ⟨_, rfl⟩, by decide, by decide, rfl, by decide⟩

theorem witness_RunComposesCommandsInOrder :
    State.reset.faultMark = none ∧ ∃ t, perform ⟨0x04, bus1234⟩ (accept State.reset) = .next t :=
  ⟨rfl, _, rfl⟩

/-- A settled state right after reset, and one with a response pulse up and an error in it. -/
theorem witness_EveryStepKeepsTheInstanceSettled :
    (State.reset.settled ∧ ∃ t, step State.reset = .next t) ∧
    ∃ s : State, s.settled ∧ s.rspValid = 1 ∧ s.err = 1 ∧ ∃ t, step s = .next t :=
  ⟨⟨by unfold State.settled; decide, _, rfl⟩,
    { seeded with cmdReady := 0, rspValid := 1, err := 1 }, by unfold State.settled; decide, rfl, rfl, _, rfl⟩

theorem witness_SeededInstancesKeepRunning :
    seeded.seeded ∧ seeded.faultMark = none ∧
    ∀ c ∈ [(⟨0x02, 0⟩ : Command), ⟨0x01, 0⟩, ⟨0x00, 0⟩, ⟨0x05, 0⟩], c.cmd ≠ 0x04 :=
  ⟨⟨rfl, by decide⟩, rfl, by decide⟩

/-- Two unwritten instances that differ in `S` and are alike. -/
theorem witness_HiddenContentsAreNeverObserved :
    State.reset.written = false ∧ Alike State.reset { State.reset with S := ⟨1, 2, 3, 4⟩ } :=
  ⟨rfl, rfl, fun h => absurd h (by decide), rfl, rfl, rfl, rfl, rfl⟩

theorem witness_LanesDoNotInteract : State.reset.faultMark = none ∧ seeded.faultMark = none := by decide

/-- Two hosts that both send a NEXT, and one of them a READ_STATE after it. -/
theorem witness_ArbiterAdmitsEveryInterleaving :
    Interleaving [.command ⟨0x01, 0⟩, .command ⟨0x05, 0⟩] [.command ⟨0x01, 0⟩]
      [.command ⟨0x01, 0⟩, .command ⟨0x01, 0⟩, .command ⟨0x05, 0⟩] :=
  .first _ (.second _ (.first _ .nil))

theorem witness_ClockEdgesRefineTheStep :
    seeded.faultMark = none ∧ seeded.cmdReady = 1 ∧ (∀ p ∈ [quiet, quiet], p.rst = 0) ∧
    [quiet, quiet].length + 1 = latency oneBit ⟨0x00, 0⟩ ∧ [quiet, quiet].length + 1 = latency wide ⟨0x02, 0⟩ := by
  decide

theorem witness_NothingIsObservedBeforeCompletion :
    seeded.faultMark = none ∧ seeded.cmdReady = 1 ∧ (∀ p ∈ [quiet], p.rst = 0) ∧
    [quiet].length + 1 < latency wide ⟨0x02, 0⟩ := by decide

theorem witness_ResponsesHoldUntilTheNextCompletion :
    quiet.rst = 0 ∧ ∃ d, edge wide quiet ⟨seeded, none⟩ = .next d ∧ d.core.rspValid = 0 :=
  ⟨rfl, _, rfl, rfl⟩

theorem witness_IdleInstanceHolds :
    seeded.faultMark = none ∧ (∀ p ∈ [quiet, quiet], p.rst = 0 ∧ p.cmdValid = 0) ∧ [quiet, quiet] ≠ [] := by decide

theorem witness_LatenciesAreOpenFromOneOn :
    1 ≤ 1 ∧ oneBit.jumps = .oneBitPerEdge 0 ∧ decode ⟨0x02, 0⟩ = .command .jump ∧
    decode ⟨0x03, 0⟩ = .command .longJump ∧ 0 < 256 ∧ 255 < 256 ∧ bitsDue oneBit ⟨⟨0x02, 0⟩, 255, 255⟩ = 1 :=
  ⟨by decide, rfl, rfl, rfl, by decide, by decide, by decide⟩

theorem witness_StepTestsInPriorityOrder :
    (seeded.faultMark = none ∧ resetting.rst = 1) ∧ (∃ why, decode ⟨0x07, 0⟩ = .illegal why) ∧
    (decode ⟨0x05, 0⟩ = .command .readState ∧ State.reset.written = false ∧
      ∀ w0 w1 w2 w3, Instr.readState ≠ .loadState w0 w1 w2 w3) ∧
    (decode ⟨0x05, 0⟩ = .command .readState ∧ seeded.written = true) ∧
    (decode ⟨0x04, bus1234⟩ = .command (.loadState 1 2 3 4) ∧ State.reset.written = false) :=
  ⟨⟨rfl, rfl⟩, ⟨_, rfl⟩, ⟨rfl, rfl, by simp⟩, ⟨rfl, rfl⟩, by decide, rfl⟩

end Sys2Proof.Tests
end

section
/-! The timing of an implementation: the latency and the engine's constant of each command by what it decodes to, and
what a design of one bit per edge takes at an edge of a jump. -/

namespace Sys2Proof.Config

theorem one_le_latJump (T : Timing) : 1 ≤ latJump T := by
  unfold latJump
  cases T.jumps with
  | oneBitPerEdge extra => exact Nat.le_add_left_of_le (by decide : 1 ≤ jumpSteps)
  | other extraJump extraLongJump share => exact Nat.le_add_left 1 extraJump

theorem one_le_latLongJump (T : Timing) : 1 ≤ latLongJump T := by
  unfold latLongJump
  cases T.jumps with
  | oneBitPerEdge extra => exact Nat.le_add_left_of_le (by decide : 1 ≤ jumpSteps)
  | other extraJump extraLongJump share => exact Nat.le_add_left 1 extraLongJump

section
variable {T : Timing} {extra : Nat} (h : T.jumps = .oneBitPerEdge extra)
include h

theorem latJump_of_oneBitPerEdge : latJump T = extra + jumpSteps := by
  simp [latJump, h]

theorem latLongJump_of_oneBitPerEdge : latLongJump T = extra + jumpSteps := by
  simp [latLongJump, h]

theorem jumpBits_of_oneBitPerEdge (sel : BitVec 1) (age : Nat) : jumpBits T sel age = 1 := by
  simp [jumpBits, h]

end

end Sys2Proof.Config

namespace Sys2Proof.Machine

/-! Each command word decodes to its own instruction, whatever `wdata` is (30_encoding.md R62). -/

@[simp] theorem decode_one (w : Bus) : decode ⟨1#8, w⟩ = .command .next :=
  (decode_command_iff _ _).2 ⟨.next, rfl, rfl⟩

@[simp] theorem decode_two (w : Bus) : decode ⟨2#8, w⟩ = .command .jump :=
  (decode_command_iff _ _).2 ⟨.jump, rfl, rfl⟩

@[simp] theorem decode_three (w : Bus) : decode ⟨3#8, w⟩ = .command .longJump :=
  (decode_command_iff _ _).2 ⟨.longJump, rfl, rfl⟩

@[simp] theorem decode_four (w : Bus) : decode ⟨4#8, w⟩ = .command (loadOfBus w) :=
  (decode_command_iff _ _).2 ⟨.loadState, rfl, rfl⟩

@[simp] theorem decode_five (w : Bus) : decode ⟨5#8, w⟩ = .command .readState :=
  (decode_command_iff _ _).2 ⟨.readState, rfl, rfl⟩

section
variable {c : Command}

theorem latency_of_illegal (T : Config.Timing) {why : IllegalCommand} (h : decode c = .illegal why) :
    latency T c = Config.latIllegal T := by
  simp [latency, h]

theorem latency_of_next (T : Config.Timing) (h : decode c = .command .next) : latency T c = Config.latNext T := by
  simp [latency, h]

theorem latency_of_jump (T : Config.Timing) (h : decode c = .command .jump) : latency T c = Config.latJump T := by
  simp [latency, h]

theorem latency_of_longJump (T : Config.Timing) (h : decode c = .command .longJump) :
    latency T c = Config.latLongJump T := by
  simp [latency, h]

theorem latency_of_loadState (T : Config.Timing) {w0 w1 w2 w3 : Word}
    (h : decode c = .command (.loadState w0 w1 w2 w3)) : latency T c = Config.latLoad T := by
  simp [latency, h]

theorem latency_of_readState (T : Config.Timing) (h : decode c = .command .readState) :
    latency T c = Config.latRead T := by
  simp [latency, h]

theorem engineSel_of_jump (h : decode c = .command .jump) : engineSel c = some 0 := by
  simp [engineSel, h]

theorem engineSel_of_longJump (h : decode c = .command .longJump) : engineSel c = some 1 := by
  simp [engineSel, h]

end

/-- No command completes before the edge that accepts it (70_reset_and_hazards.md R170). -/
theorem one_le_latency (T : Config.Timing) (c : Command) : 1 ≤ latency T c := by
  cases hd : decode c with
  | illegal why => exact latency_of_illegal T hd ▸ Nat.le_add_left 1 T.extraIllegal
  | command i =>
    cases i with
    | next => exact latency_of_next T hd ▸ Nat.le_add_left 1 T.extraNext
    | jump => exact latency_of_jump T hd ▸ Config.one_le_latJump T
    | longJump => exact latency_of_longJump T hd ▸ Config.one_le_latLongJump T
    | loadState w0 w1 w2 w3 => exact latency_of_loadState T hd ▸ Nat.le_add_left 1 T.extraLoad
    | readState => exact latency_of_readState T hd ▸ Nat.le_add_left 1 T.extraRead

/-- An implementation with these five latencies, whose engine takes all the constant bits of a jump at the completing
edge. -/
def timingOf (next jump longJump load read : Nat) : Config.Timing :=
  { extraNext := next - 1
    extraLoad := load - 1
    extraRead := read - 1
    extraIllegal := 0
    jumps := .other (jump - 1) (longJump - 1) fun _ _ => 0 }

section
variable {a b c d e : Nat}

theorem latNext_timingOf (h : 1 ≤ a) : Config.latNext (timingOf a b c d e) = a := Nat.sub_add_cancel h

theorem latJump_timingOf (h : 1 ≤ b) : Config.latJump (timingOf a b c d e) = b := Nat.sub_add_cancel h

theorem latLongJump_timingOf (h : 1 ≤ c) : Config.latLongJump (timingOf a b c d e) = c := Nat.sub_add_cancel h

theorem latLoad_timingOf (h : 1 ≤ d) : Config.latLoad (timingOf a b c d e) = d := Nat.sub_add_cancel h

theorem latRead_timingOf (h : 1 ≤ e) : Config.latRead (timingOf a b c d e) = e := Nat.sub_add_cancel h

end

/-- Before the completing edge of a JUMP or LONG_JUMP the schedule says how many bits are taken, as far as there are
so many left. -/
theorem bitsDue_of_not_last {T : Config.Timing} {f : Flight} {sel : BitVec 1} (h : engineSel f.command = some sel)
    (hl : f.age + 1 < latency T f.command) :
    bitsDue T f = min (Config.jumpBits T sel f.age) (Config.jumpSteps - f.bits) := by
  unfold bitsDue
  rw [h]
  exact if_pos hl

/-- One bit per edge: at each of the first 256 edges of a jump one more bit is due. The completing edge can be among
them only as the last one, and then one bit is left. -/
theorem bitsDue_of_oneBitPerEdge {T : Config.Timing} {extra : Nat} (hT : T.jumps = .oneBitPerEdge extra)
    {c : Command} {sel : BitVec 1} (hsel : engineSel c = some sel) (hlat : latency T c = extra + Config.jumpSteps)
    {k : Nat} (hk : k < 256) : bitsDue T ⟨c, k, k⟩ = 1 := by
  by_cases hlast : k + 1 < latency T c
  · have hdue := bitsDue_of_not_last (f := ⟨c, k, k⟩) hsel hlast
    have hbit : min 1 (256 - k) = 1 := by omega
    rw [hdue, Config.jumpBits_of_oneBitPerEdge hT]
    exact hbit
  · have hdue := bitsDue_of_last (f := ⟨c, k, k⟩) hsel (Nat.not_lt.1 hlast)
    have hbit : 256 - k = 1 := by
      have hsteps : Config.jumpSteps = 256 := rfl
      omega
    exact hdue.trans hbit

/-- Settles O52: `one_le_latency`, the timing `timingOf` of five given latencies, and for one bit per edge the common
latency `extra + 256` of both jumps. -/
theorem latenciesAreOpenFromOneOn : Obligations.LatenciesAreOpenFromOneOn := by
  unfold Obligations.LatenciesAreOpenFromOneOn
  refine ⟨one_le_latency, fun a b c d e ha hb hc hd he => ⟨timingOf a b c d e, ?_, ?_, ?_, ?_, ?_⟩,
    fun T extra hT => ?_⟩
  · exact fun w => (latency_of_next _ (decode_one w)).trans (latNext_timingOf ha)
  · exact fun w => (latency_of_jump _ (decode_two w)).trans (latJump_timingOf hb)
  · exact fun w => (latency_of_longJump _ (decode_three w)).trans (latLongJump_timingOf hc)
  · exact fun w => (latency_of_loadState _ (decode_four w)).trans (latLoad_timingOf hd)
  · exact fun w => (latency_of_readState _ (decode_five w)).trans (latRead_timingOf he)
  · have hjump := Config.latJump_of_oneBitPerEdge hT
    have hlong := Config.latLongJump_of_oneBitPerEdge hT
    refine ⟨hjump.trans hlong.symm, hjump ▸ Nat.le_add_left 256 extra, fun c k hc hk => ?_⟩
    obtain hc | hc := hc
    · exact bitsDue_of_oneBitPerEdge hT (engineSel_of_jump hc) ((latency_of_jump T hc).trans hjump) hk
    · exact bitsDue_of_oneBitPerEdge hT (engineSel_of_longJump hc) ((latency_of_longJump T hc).trans hlong) hk

end Sys2Proof.Machine
end

section
/-! What a command leaves where it completes, said once for all five; and what no command, step or clock edge does to
the state between two commands (10_state.md R22 to R28). -/

namespace Sys2Proof

/-- The packing of 20_memory.md R41 read back, word3 first. -/
theorem busOfWords_extract (q : Quad) :
    (busOfWords q).extractLsb' 192 64 = q.w3 ∧ (busOfWords q).extractLsb' 128 64 = q.w2 ∧
    (busOfWords q).extractLsb' 64 64 = q.w1 ∧ (busOfWords q).extractLsb' 0 64 = q.w0 := by
  refine ⟨?_, ?_, ?_, ?_⟩ <;> refine BitVec.eq_of_getLsbD_eq fun j hj => ?_ <;>
    obtain ⟨h0, h1, h2, h3⟩ := busOfWords_getLsbD q j hj <;>
    simp [hj, h0, h1, h2, h3]

end Sys2Proof

namespace Sys2Proof.Machine

theorem rdataOfOutput_extract_low (r : Word) : (rdataOfOutput r).extractLsb' 0 64 = r := by
  apply BitVec.eq_of_getLsbD_eq
  intro j hj
  simp [rdataOfOutput, hj, Nat.lt_trans hj (by decide : 64 < 256)]

theorem rdataOfOutput_extract_high (r : Word) : (rdataOfOutput r).extractLsb' 64 192 = 0 := by
  apply BitVec.eq_of_getLsbD_eq
  intro j hj
  simp [rdataOfOutput]

/-! The completed commands -/

/-- LOAD_STATE, the one command that does not read `S` (60_exceptions.md R143). -/
def isLoad : Instr → Bool
  | .next => false
  | .jump => false
  | .longJump => false
  | .loadState _ _ _ _ => true
  | .readState => false

/-- What the jump by the constant `sel` selects leaves, its engine idle again. -/
def jumped (sel : BitVec 1) (s : State) : State :=
  respond 0 0 { s with
    S := (ticks 256 (startEngine sel s.S)).acc
    engine := finishedEngine (ticks 256 (startEngine sel s.S)) }

/-- What a command leaves where it completes; `exec_eq` ties it to the dispatch. -/
def completed (i : Instr) (s : State) : State :=
  match i with
  | .next => respond 0 (rdataOfOutput (nextOutput s.S)) (writeS (nextState s.S) s)
  | .jump => jumped 0 s
  | .longJump => jumped 1 s
  | .loadState w0 w1 w2 w3 => respond 0 0 { s with S := ⟨w0, w1, w2, w3⟩, written := true }
  | .readState => respond 0 (busOfWords s.S) s

/-- A command completes when `S` is written or it is LOAD_STATE, and ends in the model fault otherwise. -/
theorem exec_eq (i : Instr) (s : State) :
    exec i s = if s.written || isLoad i then .next (completed i s) else .fault .unwrittenState := by
  cases i with
  | next => rw [execNext_eq, isLoad, Bool.or_false, completed]
  | jump => rw [execJump_eq, runJump_eq, isLoad, Bool.or_false, completed, jumped]
  | longJump => rw [execLongJump_eq, runJump_eq, isLoad, Bool.or_false, completed, jumped]
  | loadState w0 w1 w2 w3 => rw [execLoadState_eq, isLoad, Bool.or_true, if_pos rfl, completed]
  | readState => rw [execReadState_eq, isLoad, Bool.or_false, completed]

@[simp] theorem completed_err (i : Instr) (s : State) : (completed i s).err = 0 := by cases i <;> rfl
@[simp] theorem completed_rspValid (i : Instr) (s : State) : (completed i s).rspValid = 1 := by cases i <;> rfl
@[simp] theorem completed_cmdReady (i : Instr) (s : State) : (completed i s).cmdReady = s.cmdReady := by
  cases i <;> rfl

@[simp] theorem completed_written (i : Instr) (s : State) : (completed i s).written = (s.written || isLoad i) := by
  cases i with
  | loadState w0 w1 w2 w3 => exact (Bool.or_true _).symm
  | next | jump | longJump | readState => exact (Bool.or_false _).symm

/-- The engine is idle after every command that found it idle: JUMP and LONG_JUMP let `BUSY` fall, the others do not
touch it (10_state.md R28). -/
theorem completed_engine_busy (i : Instr) {s : State} (h : s.engine.busy = 0) : (completed i s).engine.busy = 0 := by
  cases i with
  | jump | longJump => rfl
  | next | loadState w0 w1 w2 w3 | readState => exact h

/-- An accepted command that answers a next state responded as illegal or completed. -/
theorem perform_eq_next {c : Command} {s t : State} (h : perform c s = .next t) :
    (∃ why, decode c = .illegal why ∧ t = illegalCommand s) ∨
    (∃ i, decode c = .command i ∧ t = completed i s) := by
  cases hd : decode c with
  | illegal why =>
    rw [perform_of_illegal hd] at h
    cases h
    exact .inl ⟨why, rfl, rfl⟩
  | command i =>
    rw [perform_of_command hd, exec_eq] at h
    split at h
    · cases h
      exact .inr ⟨i, rfl, rfl⟩
    · cases h

/-- `perform_eq_next` for a command that decodes. -/
theorem eq_completed_of_perform {c : Command} {i : Instr} {s t : State} (hd : decode c = .command i)
    (h : perform c s = .next t) : t = completed i s := by
  obtain ⟨why, hw, -⟩ | ⟨j, hj, rfl⟩ := perform_eq_next h
  · rw [hd] at hw
    cases hw
  · rw [hd] at hj
    cases hj
    rfl

theorem perform_rspValid {c : Command} {s t : State} (h : perform c s = .next t) : t.rspValid = 1 := by
  obtain ⟨why, -, rfl⟩ | ⟨i, -, rfl⟩ := perform_eq_next h
  · exact illegalCommand_rspValid s
  · exact completed_rspValid i s

/-- A core that takes an input carries no mark. -/
theorem issue_eq_next {i : HostInput} {s t : State} (h : issue i s = .next t) :
    s.faultMark = none ∧ takeInput i s = .next t := by
  cases hm : s.faultMark with
  | none => exact ⟨rfl, issue_of_unmarked hm i ▸ h⟩
  | some f =>
    rw [issue_of_mark hm] at h
    cases h

/-! Settled states -/

theorem reset_settled : State.reset.settled := ⟨reset_engine_busy, by simp, by simp⟩

theorem idleCycle_settled {s : State} (h : s.settled) : (idleCycle s).settled := by
  obtain ⟨hbusy, -, herr⟩ := h
  exact ⟨hbusy, by simp, herr⟩

theorem resetCore_settled (s : State) : (resetCore s).settled := ⟨resetCore_engine_busy s, by simp, by simp⟩

/-- A command accepted by an idle engine leaves the pulse up with `cmd_ready` still down; an illegal one comes with no
data, every other with no error. -/
theorem perform_settled {c : Command} {s t : State} (hbusy : s.engine.busy = 0) (hready : s.cmdReady = 0)
    (h : perform c s = .next t) : t.settled := by
  obtain ⟨why, -, rfl⟩ | ⟨i, -, rfl⟩ := perform_eq_next h
  · exact ⟨hbusy, by simp [hready], fun _ => illegalCommand_rdata s⟩
  · exact ⟨completed_engine_busy i hbusy, by simp [hready], by simp⟩

theorem issue_settled {i : HostInput} {s t : State} (hs : s.settled) (h : issue i s = .next t) : t.settled := by
  obtain ⟨-, h⟩ := issue_eq_next h
  cases i with
  | command c =>
    obtain ⟨hbusy, -, -⟩ := hs
    exact perform_settled (s := accept s) hbusy (accept_cmdReady s) h
  | idle =>
    cases h
    exact idleCycle_settled hs
  | reset =>
    cases h
    exact resetCore_settled s
  | resetDuring c =>
    cases h
    exact resetCore_settled (accept s)

/-- Settles O43. -/
theorem resetStateIsSettled : Obligations.ResetStateIsSettled := reset_settled

/-- Settles O42: a step is an idle cycle or the queue's first input (`step_cases`), and every input keeps
`State.settled`, which does not speak of the queue. -/
theorem everyStepKeepsTheInstanceSettled : Obligations.EveryStepKeepsTheInstanceSettled := by
  unfold Obligations.EveryStepKeepsTheInstanceSettled
  intro s t hs h
  obtain ⟨-, hstep⟩ | ⟨i, is, -, hstep⟩ := step_cases s
  · exact issue_settled hs (hstep ▸ h)
  · exact issue_settled (s := { s with inputs := is }) hs (hstep ▸ h)

/-! The layout of the response data -/

/-- Settles O30: what each command leaves in `RDATA` (`completed`), with the words read back from the bus. -/
theorem responseDataHasItsLayout : Obligations.ResponseDataHasItsLayout := by
  unfold Obligations.ResponseDataHasItsLayout
  intro c s t h
  refine ⟨fun hd => ?_, fun hd => ?_, fun hd => ?_, fun ⟨why, hd⟩ => ?_⟩
  · obtain rfl := eq_completed_of_perform hd h
    exact ⟨rdataOfOutput_extract_high _, rdataOfOutput_extract_low _⟩
  · obtain hd | hd | hd := hd <;> obtain rfl := eq_completed_of_perform hd h <;> rfl
  · obtain rfl := eq_completed_of_perform hd h
    exact busOfWords_extract s.S
  · rw [perform_of_illegal hd] at h
    cases h
    exact illegalCommand_rdata s

/-! The written flag -/

/-- Only the command word 0x04 is a LOAD_STATE (30_encoding.md R62). -/
theorem isLoad_iff_of_decode {c : Command} {i : Instr} (h : decode c = .command i) :
    isLoad i = true ↔ c.cmd = 0x04 := by
  obtain ⟨op, hc, rfl⟩ := (decode_command_iff c i).1 h
  rw [hc]
  cases op with
  | loadState => exact iff_of_true rfl rfl
  | next | jump | longJump | readState => exact iff_of_false Bool.false_ne_true (by decide)

theorem cmd_ne_four_of_illegal {c : Command} {why : IllegalCommand} (h : decode c = .illegal why) : c.cmd ≠ 0x04 := by
  intro hc
  rw [decode_illegal_iff, hc] at h
  cases h

/-- The written flag is set by 0x04 and left by every other command. -/
theorem perform_written {c : Command} {s t : State} (h : perform c s = .next t) :
    (c.cmd = 0x04 → t.written = true) ∧ (c.cmd ≠ 0x04 → t.written = s.written) := by
  obtain ⟨why, hd, rfl⟩ | ⟨i, hd, rfl⟩ := perform_eq_next h
  · exact ⟨fun hc => absurd hc (cmd_ne_four_of_illegal hd), fun _ => illegalCommand_written s⟩
  · have hload := isLoad_iff_of_decode hd
    rw [completed_written]
    exact ⟨fun hc => by rw [hload.2 hc, Bool.or_true],
      fun hc => by rw [Bool.eq_false_iff.2 (mt hload.1 hc), Bool.or_false]⟩

theorem perform_of_unwritten {c : Command} {i : Instr} {s : State} (hs : s.written = false)
    (hd : decode c = .command i) (hi : isLoad i = false) : perform c s = .fault .unwrittenState := by
  rw [perform_of_command hd, exec_eq, hs, hi]
  rfl

/-- The command words of the four readers of `S`. -/
theorem decode_reader {c : Command} (h : c.cmd = 0x01 ∨ c.cmd = 0x02 ∨ c.cmd = 0x03 ∨ c.cmd = 0x05) :
    ∃ i, decode c = .command i ∧ isLoad i = false := by
  obtain ⟨cmd, w⟩ := c
  obtain rfl | rfl | rfl | rfl := h
  · exact ⟨_, decode_one w, rfl⟩
  · exact ⟨_, decode_two w, rfl⟩
  · exact ⟨_, decode_three w, rfl⟩
  · exact ⟨_, decode_five w, rfl⟩

/-- Settles O36: `perform_written` on the accepted command; the readers fault by `perform_of_unwritten`. -/
theorem writtenFlagFollowsLoadAndReset : Obligations.WrittenFlagFollowsLoadAndReset := by
  unfold Obligations.WrittenFlagFollowsLoadAndReset
  refine ⟨reset_written, fun s t h => ?_, fun c s t h => ?_, fun s t h => ?_, fun c s t h => ?_,
    fun c s hs hm hc => ?_⟩
  · obtain ⟨-, ht⟩ := issue_eq_next h
    cases ht
    exact resetCore_written s
  · obtain ⟨-, ht⟩ := issue_eq_next h
    cases ht
    exact resetCore_written (accept s)
  · obtain ⟨-, ht⟩ := issue_eq_next h
    cases ht
    exact idleCycle_written s
  · obtain ⟨-, ht⟩ := issue_eq_next h
    exact perform_written (s := accept s) ht
  · obtain ⟨i, hd, hi⟩ := decode_reader hc
    exact (issue_of_unmarked hm _).trans (perform_of_unwritten (s := accept s) hs hd hi)

/-! States a host cannot tell apart -/

section
variable {s t : State}

theorem alike_accept (h : Alike s t) : Alike (accept s) (accept t) := by
  obtain ⟨hw, hS, herr, hrdata, -, -, hmark⟩ := h
  exact ⟨hw, hS, herr, hrdata, rfl, rfl, hmark⟩

theorem alike_idleCycle (h : Alike s t) : Alike (idleCycle s) (idleCycle t) := by
  obtain ⟨hw, hS, herr, hrdata, -, -, hmark⟩ := h
  exact ⟨hw, hS, herr, hrdata, rfl, rfl, hmark⟩

/-- After a reset nothing of the old state is left but the mark, and `S` is unwritten whatever the free values are. -/
theorem alike_resetCore (h : Alike s t) : Alike (resetCore s) (resetCore t) := by
  obtain ⟨-, -, -, -, -, -, hmark⟩ := h
  exact ⟨rfl, fun hw => absurd hw Bool.false_ne_true, rfl, rfl, rfl, rfl, hmark⟩

theorem alike_respond (h : Alike s t) (e : BitVec 1) (d : Bus) : Alike (respond e d s) (respond e d t) := by
  obtain ⟨hw, hS, -, -, hready, -, hmark⟩ := h
  exact ⟨hw, hS, rfl, rfl, hready, rfl, hmark⟩

/-- The same `S` and the same flag written to both, and anything to the hidden engines. -/
theorem alike_write (h : Alike s t) (q : Quad) {b b' : Bool} (hb : b = b') (e e' : Engine) :
    Alike { s with S := q, written := b, engine := e } { t with S := q, written := b', engine := e' } := by
  obtain ⟨-, -, herr, hrdata, hready, hvalid, hmark⟩ := h
  exact ⟨hb, fun _ => rfl, herr, hrdata, hready, hvalid, hmark⟩

/-- A command that completes reads a written `S`, which both share, or is LOAD_STATE, which reads none. -/
theorem alike_completed (h : Alike s t) {i : Instr} (hrun : (s.written || isLoad i) = true) :
    Alike (completed i s) (completed i t) := by
  have ⟨hwritten, hSw, _⟩ := h
  have hS : isLoad i = false → s.S = t.S := fun hi => hSw (by simpa [hi] using hrun)
  cases i with
  | next =>
    rw [completed, completed, ← hS rfl]
    exact alike_respond (alike_write h _ hwritten _ _) _ _
  | jump | longJump =>
    rw [completed, completed, jumped, jumped, ← hS rfl]
    exact alike_respond (alike_write h _ hwritten _ _) _ _
  | loadState w0 w1 w2 w3 => exact alike_respond (alike_write h _ rfl _ _) _ _
  | readState =>
    rw [completed, completed, ← hS rfl]
    exact alike_respond h _ _

theorem alikeResult_perform (h : Alike s t) (c : Command) : AlikeResult (perform c s) (perform c t) := by
  cases hd : decode c with
  | illegal why =>
    rw [perform_of_illegal hd, perform_of_illegal hd]
    exact alike_respond h _ _
  | command i =>
    have ⟨hwritten, _⟩ := h
    rw [perform_of_command hd, perform_of_command hd, exec_eq, exec_eq, ← hwritten]
    split
    · next hrun => exact alike_completed h hrun
    · rfl

theorem alikeResult_takeInput (h : Alike s t) (i : HostInput) : AlikeResult (takeInput i s) (takeInput i t) := by
  cases i with
  | command c => exact alikeResult_perform (alike_accept h) c
  | idle => exact alike_idleCycle h
  | reset => exact alike_resetCore h
  | resetDuring c => exact alike_resetCore (alike_accept h)

theorem alikeResult_issue (h : Alike s t) (i : HostInput) : AlikeResult (issue i s) (issue i t) := by
  have ⟨_, _, _, _, _, _, hmark⟩ := h
  cases hs : s.faultMark with
  | none =>
    rw [issue_of_unmarked hs, issue_of_unmarked (hmark ▸ hs)]
    exact alikeResult_takeInput h i
  | some f =>
    rw [issue_of_mark hs, issue_of_mark (hmark ▸ hs)]
    rfl

end

/-- Two runs that go on alike from alike states stay alike. -/
theorem alikeResult_andThen {r r' : Result} {f g : State → Result} (h : AlikeResult r r')
    (hfg : ∀ s t, Alike s t → AlikeResult (f s) (g t)) : AlikeResult (andThen r f) (andThen r' g) := by
  cases r with
  | next s =>
    cases r' with
    | next t => exact hfg s t h
    | fault e | refused e => exact False.elim h
  | fault e =>
    cases r' with
    | fault e' => exact h
    | next t | refused e' => exact False.elim h
  | refused e =>
    cases r' with
    | refused e' => exact h
    | next t | fault e' => exact False.elim h

theorem alikeResult_issueAll (is : List HostInput) {s t : State} (h : Alike s t) :
    AlikeResult (issueAll is s) (issueAll is t) := by
  induction is generalizing s t with
  | nil => exact h
  | cons i is ih => exact alikeResult_andThen (alikeResult_issue h i) fun _ _ h' => ih h'

/-- Settles O45, by induction on the inputs (`alikeResult_issueAll`). -/
theorem hiddenContentsAreNeverObserved : Obligations.HiddenContentsAreNeverObserved := by
  unfold Obligations.HiddenContentsAreNeverObserved
  refine ⟨fun s t h is => alikeResult_issueAll is h, fun s q e hs => ?_⟩
  exact ⟨rfl, fun hw => absurd (hs.symm.trans hw) Bool.false_ne_true, rfl, rfl, rfl, rfl, rfl⟩

/-! Clock edges without a completion -/

/-- The acceptance of a command touches the handshake and, for a jump, the engine. -/
theorem acceptCommand_eq (c : Command) (s : State) : ∃ e, acceptCommand c s = { accept s with engine := e } := by
  unfold acceptCommand
  cases engineSel c with
  | none => exact ⟨s.engine, rfl⟩
  | some sel => exact ⟨startEngine sel s.S, rfl⟩

theorem finishJump_rspValid {s t : State} (h : finishJump s = .next t) : t.rspValid = 1 := by
  unfold finishJump at h
  obtain ⟨-, heq⟩ | ⟨-, heq⟩ := ifWritten_cases s _ <;> rw [heq] at h <;> cases h
  rfl

/-- Every completion comes with the pulse (10_state.md R27). -/
theorem complete_rspValid {c : Command} {s t : State} (h : complete c s = .next t) : t.rspValid = 1 := by
  unfold complete at h
  cases hsel : engineSel c with
  | none =>
    rw [hsel] at h
    exact perform_rspValid h
  | some sel =>
    rw [hsel] at h
    exact finishJump_rspValid h

/-- Without a pulse a command in flight has only moved the engine on. -/
theorem flightEdge_of_no_pulse {T : Config.Timing} {f : Flight} {s : State} {d : CycleState}
    (h : flightEdge T f s = .next d) (hd : d.core.rspValid = 0) : d.core = engineEdge T f s := by
  obtain ⟨-, heq⟩ | ⟨-, ⟨t, hc, heq⟩ | ⟨e, -, heq⟩ | ⟨e, -, heq⟩⟩ := flightEdge_cases T f s
  · rw [heq] at h
    cases h
    rfl
  · rw [heq] at h
    cases h
    exact absurd (hd.symm.trans (complete_rspValid hc)) (by decide)
  · rw [heq] at h
    cases h
  · rw [heq] at h
    cases h

/-- Settles O50: such an edge moves the engine, accepts or idles (`edge_cases`), and none of these writes `ERR`,
`RDATA`, `S` or `S_written`. -/
theorem responsesHoldUntilTheNextCompletion : Obligations.ResponsesHoldUntilTheNextCompletion := by
  unfold Obligations.ResponsesHoldUntilTheNextCompletion
  intro T p c d hrst h hd
  obtain ⟨_, -, heq⟩ | ⟨-, hp, -⟩ | ⟨-, -, ⟨f, -, heq⟩ | ⟨-, -, -, heq⟩ | ⟨-, -, heq⟩⟩ := edge_cases T p c
  · rw [heq] at h
    cases h
  · exact absurd (hrst.symm.trans hp) (by decide)
  · rw [flightEdge_of_no_pulse (heq ▸ h) hd]
    exact ⟨rfl, rfl, rfl, rfl⟩
  · obtain ⟨e, haccept⟩ := acceptCommand_eq ⟨p.cmd, p.wdata⟩ c.core
    rw [flightEdge_of_no_pulse (heq ▸ h) hd, haccept]
    exact ⟨rfl, rfl, rfl, rfl⟩
  · rw [heq] at h
    cases h
    exact ⟨rfl, rfl, rfl, rfl⟩

end Sys2Proof.Machine
end

section
/-! What 20_memory.md says of the bus, of a command's side effects on `S`, of the order of commands, of the lanes of a
system and of two hosts on one core. -/

namespace Sys2Proof

/-- The number of a word is its place on the bus (20_memory.md R41). -/
theorem wordsOfBus_get (b : Bus) (i : Fin 4) : (wordsOfBus b).get i = b.extractLsb' (64 * i.val) 64 := by
  match i with
  | 0 | 1 | 2 | 3 => rfl

@[simp] theorem wordsOfBus_busOfWords (q : Quad) : wordsOfBus (busOfWords q) = q := by
  obtain ⟨h3, h2, h1, h0⟩ := busOfWords_extract q
  rw [wordsOfBus, h3, h2, h1, h0]

/-- The four words are neighbours on the bus, and together the whole of it. -/
@[simp] theorem busOfWords_wordsOfBus (b : Bus) : busOfWords (wordsOfBus b) = b := by
  have hhigh : b.extractLsb' 192 64 ++ b.extractLsb' 128 64 = b.extractLsb' 128 128 :=
    BitVec.extractLsb'_append_extractLsb'_eq_extractLsb' rfl
  have hupper : b.extractLsb' 128 128 ++ b.extractLsb' 64 64 = b.extractLsb' 64 192 :=
    BitVec.extractLsb'_append_extractLsb'_eq_extractLsb' rfl
  have hall : b.extractLsb' 64 192 ++ b.extractLsb' 0 64 = b.extractLsb' 0 256 :=
    BitVec.extractLsb'_append_extractLsb'_eq_extractLsb' rfl
  calc busOfWords (wordsOfBus b)
      = b.extractLsb' 192 64 ++ b.extractLsb' 128 64 ++ b.extractLsb' 64 64 ++ b.extractLsb' 0 64 := rfl
    _ = b := by rw [hhigh, hupper, hall, BitVec.extractLsb'_eq_self]

/-- Settles O5: the packing read back (`busOfWords_extract`), and both round trips. -/
theorem busCarriesWordsInOrder : Obligations.BusCarriesWordsInOrder := by
  unfold Obligations.BusCarriesWordsInOrder
  exact ⟨busOfWords_extract, wordsOfBus_get, wordsOfBus_busOfWords, busOfWords_wordsOfBus⟩

end Sys2Proof

namespace Sys2Proof.Machine

/-! Side effects on `S` -/

theorem perform_of_written {c : Command} {i : Instr} {s : State} (hd : decode c = .command i)
    (hs : s.written = true) : perform c s = .next (completed i s) := by
  rw [perform_of_command hd, exec_eq, hs, Bool.true_or, if_pos rfl]

theorem perform_of_load {c : Command} {i : Instr} (hd : decode c = .command i) (hi : isLoad i = true)
    (s : State) : perform c s = .next (completed i s) := by
  rw [perform_of_command hd, exec_eq, hi, Bool.or_true, if_pos rfl]

/-- A command other than LOAD_STATE completes on a written `S` alone. -/
theorem written_of_perform {c : Command} {i : Instr} {s t : State} (hd : decode c = .command i)
    (hi : isLoad i = false) (h : perform c s = .next t) : s.written = true := by
  cases hs : s.written with
  | true => rfl
  | false =>
    rw [perform_of_unwritten hs hd hi] at h
    cases h

/-- LOAD_STATE does not look at `S`, and loading the same words again changes nothing. -/
theorem perform_load_indifferent {b : Bus} {s t : State} (h : perform ⟨0x04, b⟩ s = .next t) (q : Quad) :
    perform ⟨0x04, b⟩ { s with S := q } = .next t ∧ perform ⟨0x04, b⟩ t = .next t := by
  obtain rfl := eq_completed_of_perform (decode_four b) h
  exact ⟨perform_of_load (decode_four b) rfl _, perform_of_load (decode_four b) rfl _⟩

/-- READ_STATE leaves `S`, and reading again answers the same. -/
theorem perform_read_idempotent {w : Bus} {s t : State} (h : perform ⟨0x05, w⟩ s = .next t) :
    t.S = s.S ∧ perform ⟨0x05, w⟩ t = .next t := by
  have hs := written_of_perform (decode_five w) rfl h
  obtain rfl := eq_completed_of_perform (decode_five w) h
  exact ⟨rfl, perform_of_written (decode_five w) hs⟩

/-- An illegal command neither looks at `S` nor writes it, and answers the same again (60_exceptions.md R140). -/
theorem perform_illegal_indifferent {c : Command} {why : IllegalCommand} (hd : decode c = .illegal why)
    {s t : State} (h : perform c s = .next t) :
    t.S = s.S ∧ perform c t = .next t ∧ ∀ q : Quad, perform c { s with S := q } = .next { t with S := q } := by
  rw [perform_of_illegal hd] at h
  cases h
  exact ⟨rfl, perform_of_illegal hd _, fun q => perform_of_illegal hd _⟩

/-- What a LOAD_STATE of the words 1, 2, 3, 4 right after reset leaves: the state the next three facts are about. -/
def loaded1234 : State := completed (.loadState 1 2 3 4) State.reset

/-- `i` moves `S` off (1, 2, 3, 4), moves it again when it is done twice, and takes the all-zero state elsewhere. -/
def MovesLoadedS (i : Instr) : Prop :=
  (completed i loaded1234).S ≠ loaded1234.S ∧
  (completed i (completed i loaded1234)).S ≠ (completed i loaded1234).S ∧
  (completed i { loaded1234 with S := Quad.zero }).S ≠ (completed i loaded1234).S

theorem next_movesLoadedS : MovesLoadedS .next := by unfold MovesLoadedS; decide +kernel
theorem jump_movesLoadedS : MovesLoadedS .jump := by unfold MovesLoadedS; decide +kernel
theorem longJump_movesLoadedS : MovesLoadedS .longJump := by unfold MovesLoadedS; decide +kernel

/-- A command that moves the loaded state reads `S`, writes it and is not idempotent (20_memory.md R46). -/
theorem MovesLoadedS.sideEffects {i : Instr} (hi : MovesLoadedS i) {c : Command} (hd : decode c = .command i) :
    ∃ s t u : State, perform c s = .next t ∧ perform c t = .next u ∧ t.S ≠ s.S ∧ u.S ≠ t.S ∧
      ∃ (q : Quad) (v : State), perform c { s with S := q } = .next v ∧ v.S ≠ t.S := by
  obtain ⟨hwrites, hagain, hreads⟩ := hi
  have hloaded : loaded1234.written = true := rfl
  have hcompleted : (completed i loaded1234).written = true := by rw [completed_written, hloaded, Bool.true_or]
  exact ⟨loaded1234, _, _, perform_of_written hd hloaded, perform_of_written hd hcompleted, hwrites, hagain,
    Quad.zero, _, perform_of_written hd hloaded, hreads⟩

/-- LOAD_STATE can change `S`, and what READ_STATE answers depends on `S`: words 1, 2, 3, 4 overwritten with zeros. -/
theorem load_writes_and_read_reads :
    ∃ (s t u : State) (b : Bus), perform ⟨0x04, b⟩ s = .next t ∧ t.S ≠ s.S ∧
      perform ⟨0x05, 0⟩ t = .next u ∧ ∃ (q : Quad) (v : State),
        perform ⟨0x05, 0⟩ { t with S := q } = .next v ∧ u.rdata ≠ v.rdata :=
  ⟨loaded1234, _, _, 0, perform_of_load (decode_four 0) rfl _, by decide,
    perform_of_written (decode_five 0) rfl, ⟨1, 2, 3, 4⟩, _, perform_of_written (decode_five 0) rfl, by decide⟩

/-- Settles O28: the "no" entries of R46's table hold in every state, the "yes" entries on the loaded state
(1, 2, 3, 4). -/
theorem sideEffectsAreAsTabled : Obligations.SideEffectsAreAsTabled := by
  unfold Obligations.SideEffectsAreAsTabled
  refine ⟨fun b s t q h => perform_load_indifferent h q, fun w s t h => perform_read_idempotent h,
    fun c s t ⟨why, hd⟩ h => perform_illegal_indifferent hd h, load_writes_and_read_reads, ?_⟩
  rintro cmd (rfl | rfl | rfl)
  · exact next_movesLoadedS.sideEffects (decode_one 0)
  · exact jump_movesLoadedS.sideEffects (decode_two 0)
  · exact longJump_movesLoadedS.sideEffects (decode_three 0)

/-! Commands in order -/

theorem andThen_assoc (r : Result) (f g : State → Result) :
    andThen (andThen r f) g = andThen r fun s => andThen (f s) g := by
  cases r <;> rfl

/-- The core with `is` as what the host has still to send. -/
def State.withInputs (is : List HostInput) (s : State) : State := { s with inputs := is }

theorem completed_withInputs (i : Instr) (is : List HostInput) (s : State) :
    completed i (s.withInputs is) = (completed i s).withInputs is := by
  cases i <;> rfl

theorem perform_withInputs (c : Command) (is : List HostInput) (s : State) :
    perform c (s.withInputs is) = andThen (perform c s) fun t => .next (t.withInputs is) := by
  cases hd : decode c with
  | illegal why =>
    rw [perform_of_illegal hd, perform_of_illegal hd]
    rfl
  | command i =>
    have hwritten : (s.withInputs is).written = s.written := rfl
    rw [perform_of_command hd, perform_of_command hd, exec_eq, exec_eq, hwritten, completed_withInputs]
    split <;> rfl

/-- No input looks at what is queued behind it, or changes it (log entry 5). -/
theorem issue_withInputs (i : HostInput) (is : List HostInput) (s : State) :
    issue i (s.withInputs is) = andThen (issue i s) fun t => .next (t.withInputs is) := by
  cases hm : s.faultMark with
  | some f =>
    rw [issue_of_mark hm, issue_of_mark (s := s.withInputs is) hm]
    rfl
  | none =>
    rw [issue_of_unmarked hm, issue_of_unmarked (s := s.withInputs is) hm]
    cases i with
    | command c => exact perform_withInputs c is (accept s)
    | idle | reset | resetDuring c => rfl

/-- A run on a queue takes its first input off and goes on with the rest. -/
theorem core_run_withInputs_cons (n : Nat) (i : HostInput) (is : List HostInput) (s : State) :
    Sys2Proof.core.run (n + 1) (s.withInputs (i :: is)) =
      andThen (issue i s) fun t => Sys2Proof.core.run n (t.withInputs is) := by
  have hstep : step (s.withInputs (i :: is)) = andThen (issue i s) fun t => .next (t.withInputs is) :=
    issue_withInputs i is s
  rw [core_run_succ, hstep]
  exact andThen_assoc _ _ _

/-- As many steps as there are inputs at the head of the queue perform these inputs. -/
theorem core_run_length (is rest : List HostInput) (s : State) :
    Sys2Proof.core.run is.length (s.withInputs (is ++ rest)) = issueAll is (s.withInputs rest) := by
  induction is generalizing s with
  | nil => exact core_run_zero _
  | cons i is ih =>
    refine (core_run_withInputs_cons is.length i (is ++ rest) s).trans ?_
    rw [issueAll_cons, issue_withInputs, andThen_assoc]
    exact congrArg (andThen (issue i s)) (funext ih)

theorem issueAll_append (is js : List HostInput) (s : State) :
    issueAll (is ++ js) s = andThen (issueAll is s) (issueAll js) := by
  induction is generalizing s with
  | nil => rfl
  | cons i is ih => rw [List.cons_append, issueAll_cons, issueAll_cons, andThen_assoc, funext ih]

/-- Settles O41: the run by induction on the queue (`core_run_length`), and the first input split off. -/
theorem runComposesCommandsInOrder : Obligations.RunComposesCommandsInOrder := by
  unfold Obligations.RunComposesCommandsInOrder
  refine ⟨core_run_length, issueAll_append, fun c cs s t hm h => ?_⟩
  rw [List.map_cons, issueAll_cons, issue_of_unmarked hm, takeInput_command, h, andThen_next]

/-! Lanes -/

/-- A reset leaves nothing of a core but its mark and the draw number, which no host sees. -/
theorem alike_resetCore_of_faultMark {s t : State} (h : s.faultMark = t.faultMark) :
    Alike (resetCore s) (resetCore t) :=
  ⟨rfl, fun hw => absurd hw Bool.false_ne_true, rfl, rfl, rfl, rfl, h⟩

/-- An event moves its own lane on and leaves every other. -/
theorem deliver_getElem? (lanes : List State) (e : Nat × HostInput) (k : Nat) :
    (deliver lanes e)[k]? = lanes[k]?.map fun s => (inputsOf k [e]).foldl laneAfter s := by
  obtain ⟨j, i⟩ := e
  rw [deliver, List.getElem?_modify]
  by_cases h : j = k <;> simp [inputsOf, h]

theorem inputsOf_cons (k : Nat) (e : Nat × HostInput) (es : List (Nat × HostInput)) :
    inputsOf k (e :: es) = inputsOf k [e] ++ inputsOf k es := by
  rw [inputsOf, ← List.singleton_append, List.filter_append, List.map_append]
  rfl

theorem runLanes_getElem? (lanes : List State) (es : List (Nat × HostInput)) (k : Nat) :
    (runLanes lanes es)[k]? = lanes[k]?.map fun s => (inputsOf k es).foldl laneAfter s := by
  induction es generalizing lanes with
  | nil => exact Option.map_id'.symm
  | cons e es ih =>
    calc (runLanes lanes (e :: es))[k]?
        = (runLanes (deliver lanes e) es)[k]? := rfl
      _ = ((deliver lanes e)[k]?).map fun s => (inputsOf k es).foldl laneAfter s := ih _
      _ = lanes[k]?.map fun s => (inputsOf k (e :: es)).foldl laneAfter s := by
          rw [deliver_getElem?, Option.map_map, inputsOf_cons k e es]
          simp only [List.foldl_append]
          rfl

/-- Settles O46: reset makes any two unmarked cores alike, alike cores stay so under equal inputs
(`alikeResult_issueAll`); the lanes by induction on the events (`runLanes_getElem?`). -/
theorem lanesDoNotInteract : Obligations.LanesDoNotInteract := by
  unfold Obligations.LanesDoNotInteract
  refine ⟨fun s t is hs ht => ?_, runLanes_getElem?⟩
  rw [issueAll_cons, issueAll_cons, issue_of_unmarked hs, issue_of_unmarked ht]
  exact alikeResult_issueAll is (alike_resetCore_of_faultMark (hs.trans ht.symm))

/-! Two hosts on one core -/

/-- The grants follow the interleaving, `true` where it takes from the first list. -/
theorem exists_grants_of_interleaving {xs ys zs : List HostInput} (h : Interleaving xs ys zs) :
    ∃ gs, arbitrate gs xs ys = zs := by
  induction h with
  | nil => exact ⟨[], rfl⟩
  | first x _ ih =>
    obtain ⟨gs, rfl⟩ := ih
    exact ⟨true :: gs, by rw [arbitrate]⟩
  | second y _ ih =>
    obtain ⟨gs, rfl⟩ := ih
    exact ⟨false :: gs, by rw [arbitrate]⟩

/-- Each grant takes the next input of one host, or none where that host has sent all of its own. -/
theorem arbitrate_interleaves_prefixes (gs : List Bool) (xs ys : List HostInput) :
    ∃ xs' ys' : List HostInput, xs' <+: xs ∧ ys' <+: ys ∧ Interleaving xs' ys' (arbitrate gs xs ys) := by
  induction gs generalizing xs ys with
  | nil => exact ⟨[], [], List.nil_prefix, List.nil_prefix, .nil⟩
  | cons g gs ih =>
    cases g with
    | true =>
      cases xs with
      | nil => exact ih [] ys
      | cons x xs =>
        obtain ⟨xs', ys', hxs, hys, h⟩ := ih xs ys
        exact ⟨x :: xs', ys', (List.prefix_cons_inj x).2 hxs, hys, .first x h⟩
    | false =>
      cases ys with
      | nil => exact ih xs []
      | cons y ys =>
        obtain ⟨xs', ys', hxs, hys, h⟩ := ih xs ys
        exact ⟨xs', y :: ys', hxs, (List.prefix_cons_inj y).2 hys, .second y h⟩

/-- Settles O47: by induction on the interleaving the one way, on the grants the other. -/
theorem arbiterAdmitsEveryInterleaving : Obligations.ArbiterAdmitsEveryInterleaving := by
  unfold Obligations.ArbiterAdmitsEveryInterleaving
  exact fun xs ys => ⟨fun zs => exists_grants_of_interleaving, fun gs => arbitrate_interleaves_prefixes gs xs ys⟩

end Sys2Proof.Machine
end

section
/-! A command in flight, edge by edge: what the core holds at each age, and what it ends in (20_memory.md R45;
42_jump.md R114; log entries 8 to 10). -/

namespace Sys2Proof.Machine

/-- The core in which the command of the flight `f` was accepted in the state `s`: the engine has taken the flight's
constant bits since the acceptance, and nothing else has changed. -/
def inFlight (f : Flight) (s : State) : CycleState :=
  ⟨{ acceptCommand f.command s with engine := ticks f.bits (acceptCommand f.command s).engine }, some f⟩

/-- How many constant bits a command takes from its acceptance to its completion: all of them, or none. -/
def bitsOf (c : Command) : Nat :=
  match engineSel c with
  | none => 0
  | some _ => Config.jumpSteps

section
variable {c : Command}

theorem acceptCommand_of_none (h : engineSel c = none) (s : State) : acceptCommand c s = accept s := by
  rw [acceptCommand, h]

theorem acceptCommand_of_some {sel : BitVec 1} (h : engineSel c = some sel) (s : State) :
    acceptCommand c s = { accept s with engine := startEngine sel s.S } := by
  rw [acceptCommand, h]

theorem bitsOf_of_none (h : engineSel c = none) : bitsOf c = 0 := by rw [bitsOf, h]

theorem bitsOf_of_some {sel : BitVec 1} (h : engineSel c = some sel) : bitsOf c = Config.jumpSteps := by
  rw [bitsOf, h]

theorem complete_of_none (h : engineSel c = none) (s : State) : complete c s = perform c s := by rw [complete, h]

theorem complete_of_some {sel : BitVec 1} (h : engineSel c = some sel) (s : State) : complete c s = finishJump s := by
  rw [complete, h]

/-- The engine runs for the two jumps alone, each with its own constant. -/
theorem perform_of_engineSel {sel : BitVec 1} (h : engineSel c = some sel) (s : State) :
    perform c s = runJump sel s := by
  unfold engineSel at h
  split at h <;> cases h
  · next hd => exact perform_of_command hd s
  · next hd => exact perform_of_command hd s

end

/-- All that an acceptance and the edges of a flight change: the handshake and the hidden engine. -/
theorem inFlight_core (f : Flight) (s : State) : ∃ e, (inFlight f s).core = { accept s with engine := e } := by
  obtain ⟨e, he⟩ := acceptCommand_eq f.command s
  exact ⟨ticks f.bits e, by rw [inFlight, he]⟩

theorem inFlight_faultMark (f : Flight) (s : State) : (inFlight f s).core.faultMark = s.faultMark := by
  obtain ⟨e, he⟩ := inFlight_core f s
  rw [he, accept_faultMark]

/-- The engine's part of an edge is the ticks due at it. -/
theorem engineEdge_inFlight (T : Config.Timing) (f : Flight) (s : State) :
    engineEdge T f (inFlight f s).core = (inFlight (flightOn T f) s).core := by
  simp only [engineEdge, inFlight, flightOn, ticks_add]

section
variable {T : Config.Timing} {f : Flight}

/-- No schedule takes more bits than the command has. -/
theorem flightOn_bits_le (h : f.bits ≤ bitsOf f.command) : (flightOn T f).bits ≤ bitsOf f.command := by
  have hon : (flightOn T f).bits = f.bits + bitsDue T f := rfl
  cases hsel : engineSel f.command with
  | none => rwa [hon, bitsDue_of_none hsel]
  | some sel =>
    rw [bitsOf_of_some hsel] at h ⊢
    have hdue := bitsDue_le T f
    omega

/-- At the completing edge the command has taken all its bits. -/
theorem flightOn_bits_of_last (h : f.bits ≤ bitsOf f.command) (hlast : latency T f.command ≤ f.age + 1) :
    (flightOn T f).bits = bitsOf f.command := by
  have hon : (flightOn T f).bits = f.bits + bitsDue T f := rfl
  cases hsel : engineSel f.command with
  | none =>
    rw [bitsOf_of_none hsel] at h ⊢
    rw [hon, bitsDue_of_none hsel, Nat.le_zero.1 h]
  | some sel =>
    rw [bitsOf_of_some hsel] at h ⊢
    rw [hon, bitsDue_of_last hsel hlast, Nat.add_sub_cancel' h]

/-- With all its bits taken, a command completes as the command-level step does. -/
theorem complete_inFlight (h : f.bits = bitsOf f.command) (s : State) :
    complete f.command (inFlight f s).core = perform f.command (accept s) := by
  cases hsel : engineSel f.command with
  | none => rw [complete_of_none hsel, inFlight, h, bitsOf_of_none hsel, acceptCommand_of_none hsel, ticks_zero]
  | some sel =>
    rw [complete_of_some hsel, perform_of_engineSel hsel, inFlight, h, bitsOf_of_some hsel, acceptCommand_of_some hsel]
    rfl

theorem flightEdge_of_last (hlast : latency T f.command ≤ f.age + 1) (s : State) :
    flightEdge T f s = atRest (complete f.command (engineEdge T f s)) := by
  rw [flightEdge, if_neg (Nat.not_lt.2 hlast)]
  cases complete f.command (engineEdge T f s) <;> rfl

end

/-! Runs of edges -/

section
variable {T : Config.Timing} {p : Pins} {c c' : CycleState}

theorem edges_cons_of_next (h : edge T p c = .next c') (ps : List Pins) : edges T (p :: ps) c = edges T ps c' := by
  rw [edges, h]

theorem edges_singleton : edges T [p] c = edge T p c := by
  rw [edges]
  cases edge T p c <;> rfl

theorem edges_cons_congr (h : edge T p c = edge T p c') (ps : List Pins) :
    edges T (p :: ps) c = edges T (p :: ps) c' := by
  rw [edges, edges, h]

end

section
variable {T : Config.Timing} {s : State} (hm : s.faultMark = none)
include hm

theorem edge_inFlight {p : Pins} (hp : p.rst = 0) (f : Flight) :
    edge T p (inFlight f s) = flightEdge T f (inFlight f s).core := by
  have hrst : p.rst ≠ 1 := by rw [hp]; decide
  simp only [edge, inFlight_faultMark, hm, if_neg hrst]
  rfl

/-- An edge before the last only ages the flight. -/
theorem edges_cons_inFlight {p : Pins} (hp : p.rst = 0) {f : Flight} (hage : f.age + 1 < latency T f.command)
    (ps : List Pins) : edges T (p :: ps) (inFlight f s) = edges T ps (inFlight (flightOn T f) s) := by
  refine edges_cons_of_next ?_ ps
  rw [edge_inFlight hm hp, flightEdge, if_pos hage, engineEdge_inFlight]
  rfl

/-- The completing edge ends in the command-level outcome. -/
theorem edge_inFlight_of_last {p : Pins} (hp : p.rst = 0) {f : Flight} (hbits : f.bits ≤ bitsOf f.command)
    (hlast : latency T f.command ≤ f.age + 1) :
    edge T p (inFlight f s) = atRest (perform f.command (accept s)) := by
  have hdone := complete_inFlight (f := flightOn T f) (flightOn_bits_of_last hbits hlast) s
  rw [edge_inFlight hm hp, flightEdge_of_last hlast, engineEdge_inFlight]
  exact congrArg atRest hdone

/-- The edge that accepts a command is already the first of its flight (log entry 9). -/
theorem edges_presenting (hready : s.cmdReady = 1) (c : Command) (ps : List Pins) :
    edges T (presenting c :: ps) ⟨s, none⟩ = edges T (presenting c :: ps) (inFlight ⟨c, 0, 0⟩ s) := by
  refine edges_cons_congr ?_ ps
  rw [edge_inFlight hm rfl]
  simp [edge, hm, hready, presenting, inFlight]

/-- Before its latency is over the command is in flight. -/
theorem edges_before_completion (ps : List Pins) (hps : ∀ p ∈ ps, p.rst = 0) (f : Flight)
    (hage : f.age + ps.length < latency T f.command) :
    ∃ g : Flight, g.command = f.command ∧ edges T ps (inFlight f s) = .next (inFlight g s) := by
  induction ps generalizing f with
  | nil => exact ⟨f, rfl, rfl⟩
  | cons p ps ih =>
    obtain ⟨hp, hps⟩ := List.forall_mem_cons.1 hps
    rw [List.length_cons] at hage
    rw [edges_cons_inFlight hm hp (by omega)]
    have hon : (flightOn T f).age + ps.length < latency T f.command := by
      have hstep : (flightOn T f).age = f.age + 1 := rfl
      omega
    exact ih hps (flightOn T f) hon

/-- When its latency is over the command has ended in the command-level outcome. -/
theorem edges_to_completion (ps : List Pins) (hps : ∀ p ∈ ps, p.rst = 0) (f : Flight)
    (hbits : f.bits ≤ bitsOf f.command) (hage : f.age < latency T f.command)
    (hlen : f.age + ps.length = latency T f.command) :
    edges T ps (inFlight f s) = atRest (perform f.command (accept s)) := by
  induction ps generalizing f with
  | nil => exact absurd hlen hage.ne
  | cons p ps ih =>
    obtain ⟨hp, hps⟩ := List.forall_mem_cons.1 hps
    rw [List.length_cons] at hlen
    by_cases hlast : f.age + 1 < latency T f.command
    · rw [edges_cons_inFlight hm hp hlast]
      have hon : (flightOn T f).age + ps.length = latency T f.command := by
        have hstep : (flightOn T f).age = f.age + 1 := rfl
        omega
      exact ih hps (flightOn T f) (flightOn_bits_le hbits) hlast hon
    · obtain rfl : ps = [] := List.length_eq_zero_iff.1 (by omega)
      exact edges_singleton.trans (edge_inFlight_of_last hm hp hbits (Nat.not_lt.1 hlast))

end

/-- Settles O48: the presenting edge is the first of the flight (`edges_presenting`), and the flight runs to its
completion by induction on the edges (`edges_to_completion`). -/
theorem clockEdgesRefineTheStep : Obligations.ClockEdgesRefineTheStep := by
  unfold Obligations.ClockEdgesRefineTheStep
  intro T c s ps hm hready hps hlen
  rw [edges_presenting hm hready, issue_of_unmarked hm, takeInput_command]
  exact edges_to_completion hm _ (List.forall_mem_cons.2 ⟨rfl, hps⟩) ⟨c, 0, 0⟩ (Nat.zero_le _)
    (one_le_latency T c) ((Nat.zero_add _).trans hlen)

/-- Settles O49: the command is still in flight (`edges_before_completion`), and a flight has changed nothing but the
handshake and the engine (`inFlight_core`). -/
theorem nothingIsObservedBeforeCompletion : Obligations.NothingIsObservedBeforeCompletion := by
  unfold Obligations.NothingIsObservedBeforeCompletion
  intro T c s ps hm hready hps hlen
  obtain ⟨g, hg, hrun⟩ := edges_before_completion (T := T) hm (presenting c :: ps)
    (List.forall_mem_cons.2 ⟨rfl, hps⟩) ⟨c, 0, 0⟩ (by rwa [Nat.zero_add])
  obtain ⟨e, he⟩ := inFlight_core g s
  refine ⟨(inFlight g s).core, g, (edges_presenting hm hready c ps).trans hrun, hg, ?_⟩
  rw [he]
  exact ⟨rfl, rfl, rfl, rfl, rfl, rfl⟩

end Sys2Proof.Machine
end

section
/-! The encoding: the decoder by the opcode table and by the fields of a command word, both round trips with the
encoder, which command reads `wdata`, the lines of the assembler, and the step that performs the host's next command
(30_encoding.md). -/

namespace Sys2Proof

/-! The decoder and the opcode table -/

/-- The table lists the words of the five commands and no others (30_encoding.md R62). -/
theorem wellFormedWord_iff (cmd : BitVec 8) : wellFormedWord cmd = true ↔ ∃ op, cmd = wordOf op := by
  constructor
  · intro h
    have hmask : cmd &&& tableMask = cmd := BitVec.and_allOnes
    obtain ⟨m, hm, hcmd⟩ := List.any_eq_true.1 h
    obtain rfl : cmd = m := by simpa [hmask] using hcmd
    simp only [tableMatches, List.mem_cons, List.not_mem_nil, or_false] at hm
    obtain h | h | h | h | h := hm
    · exact ⟨.next, h⟩
    · exact ⟨.jump, h⟩
    · exact ⟨.longJump, h⟩
    · exact ⟨.loadState, h⟩
    · exact ⟨.readState, h⟩
  · rintro ⟨op, rfl⟩
    cases op <;> decide

/-- The decoder and the table, written apart, agree on what a command is (30_encoding.md R62, R63). -/
theorem exists_command_iff_wellFormed (c : Command) : (∃ i, decode c = .command i) ↔ wellFormedWord c.cmd = true := by
  rw [wellFormedWord_iff]
  constructor
  · rintro ⟨i, hd⟩
    obtain ⟨op, hc, -⟩ := (decode_command_iff c i).1 hd
    exact ⟨op, hc⟩
  · rintro ⟨op, hc⟩
    exact ⟨withOperand op c.wdata, (decode_command_iff c _).2 ⟨op, hc, rfl⟩⟩

theorem exists_illegal_of_not_wellFormed {cmd : BitVec 8} (h : wellFormedWord cmd = false) (w : Bus) :
    ∃ why, decode ⟨cmd, w⟩ = .illegal why := by
  obtain ⟨why, hd⟩ := decodeWord_illegal_of_not_wellFormed cmd h
  exact ⟨why, (decode_illegal_iff _ why).2 hd⟩

/-! The fields of a command word -/

/-- A command word is its fields `RSV` and `OP` side by side (30_encoding.md R60). -/
theorem rsvField_append_opField (cmd : BitVec 8) : rsvField cmd ++ opField cmd = cmd :=
  (BitVec.extractLsb'_append_extractLsb'_eq_extractLsb' (w := 8) rfl).trans BitVec.extractLsb'_eq_self

/-- With its fields given, a command is its word of these fields and its `wdata`. -/
theorem command_eq_of_fields {c : Command} {op : BitVec 3} (hrsv : rsvField c.cmd = 0) (hop : opField c.cmd = op) :
    c = ⟨(0 : BitVec 5) ++ op, c.wdata⟩ := by
  rw [← hrsv, ← hop, rsvField_append_opField]

theorem exists_illegal_of_reservedBits {c : Command} (h : rsvField c.cmd ≠ 0) : ∃ why, decode c = .illegal why :=
  ⟨.reservedBits (rsvField c.cmd), (decode_illegal_iff c _).2 (if_pos h)⟩

/-- The three free operations (30_encoding.md R64). -/
theorem exists_illegal_of_reservedOp {c : Command} (hrsv : rsvField c.cmd = 0)
    (h : opField c.cmd = 0b000 ∨ opField c.cmd = 0b110 ∨ opField c.cmd = 0b111) : ∃ why, decode c = .illegal why := by
  obtain h | h | h := h <;> rw [command_eq_of_fields hrsv h] <;>
    exact exists_illegal_of_not_wellFormed (by decide) _

theorem count_wellFormedWords :
    ((List.range 256).filter fun n => wellFormedWord (BitVec.ofNat 8 n)).length = 5 := by
  decide +kernel

/-- The illegal words are the rest of the 256. -/
theorem count_illFormedWords :
    ((List.range 256).filter fun n => !wellFormedWord (BitVec.ofNat 8 n)).length = 251 := by
  have hsplit := (List.range 256).length_eq_length_filter_add fun n => wellFormedWord (BitVec.ofNat 8 n)
  rw [count_wellFormedWords, List.length_range] at hsplit
  omega

/-! The round trips -/

/-- What an instruction encodes to: its own command word, and `wdata` for LOAD_STATE alone (30_encoding.md R61). -/
theorem encode_withOperand (op : Opcode) (b : Bus) :
    encode (withOperand op b) = ⟨wordOf op, if wordOf op = 0x04 then b else 0⟩ := by
  cases op with
  | loadState => exact congrArg (Command.mk 0x04) (busOfWords_wordsOfBus b)
  | next | jump | longJump | readState => rfl

@[simp] theorem loadOfBus_busOfWords (q : Quad) : loadOfBus (busOfWords q) = .loadState q.w0 q.w1 q.w2 q.w3 := by
  rw [loadOfBus, wordsOfBus_busOfWords]

@[simp] theorem decode_encode (i : Instr) : decode (encode i) = .command i := by
  cases i with
  | next => exact Machine.decode_one 0
  | jump => exact Machine.decode_two 0
  | longJump => exact Machine.decode_three 0
  | loadState w0 w1 w2 w3 => exact (Machine.decode_four _).trans (congrArg Decoded.command (loadOfBus_busOfWords _))
  | readState => exact Machine.decode_five 0

/-- Settles O3: `decode_encode`, so the encoded word decodes to a command and is one of the table's. -/
theorem decodeOfEncodeIsIdentity : Obligations.DecodeOfEncodeIsIdentity := by
  unfold Obligations.DecodeOfEncodeIsIdentity
  exact fun i _ => ⟨decode_encode i, (exists_command_iff_wellFormed _).1 ⟨i, decode_encode i⟩⟩

/-- Settles O4: a command that decodes is its operation's word with its operand (`decode_command_iff`), and that is
what encodes back (`encode_withOperand`). -/
theorem encodeOfDecodeKeepsTheCommand : Obligations.EncodeOfDecodeKeepsTheCommand := by
  unfold Obligations.EncodeOfDecodeKeepsTheCommand
  intro c i hd
  obtain ⟨op, hc, rfl⟩ := (decode_command_iff c i).1 hd
  rw [encode_withOperand, hc]

/-- Settles O1: the five commands by their words, the other three words by the table, and no further command by
`decode_command_iff`. -/
theorem opcodeMapDecodes : Obligations.OpcodeMapDecodes := by
  unfold Obligations.OpcodeMapDecodes
  intro w
  refine ⟨exists_illegal_of_not_wellFormed (by decide) w, Machine.decode_one w, Machine.decode_two w,
    Machine.decode_three w, Machine.decode_four w, Machine.decode_five w,
    exists_illegal_of_not_wellFormed (by decide) w, exists_illegal_of_not_wellFormed (by decide) w, ?_⟩
  rintro cmd ⟨i, hd⟩
  obtain ⟨op, rfl, -⟩ := (decode_command_iff _ i).1 hd
  cases op <;> decide

/-- Settles O2: the two fields fix the command word (`command_eq_of_fields`), and the decoder agrees with the table
(`exists_command_iff_wellFormed`), whose words are counted. -/
theorem decoderIsTotalWithFiveCommands : Obligations.DecoderIsTotalWithFiveCommands := by
  unfold Obligations.DecoderIsTotalWithFiveCommands
  refine fun c => ⟨exists_illegal_of_reservedBits, fun hrsv => ⟨fun hop => ?_, fun hop => ?_, fun hop => ?_,
    fun hop => ?_, fun hop => ?_, exists_illegal_of_reservedOp hrsv⟩, exists_command_iff_wellFormed c,
    count_wellFormedWords, count_illFormedWords⟩
  all_goals rw [command_eq_of_fields hrsv hop]
  · exact Machine.decode_one _
  · exact Machine.decode_two _
  · exact Machine.decode_three _
  · exact Machine.decode_four _
  · exact Machine.decode_five _

/-- `wdata` reaches the answer of the decoder for the command word 0x04 alone (30_encoding.md R61). -/
theorem decode_wdata_indifferent {cmd : BitVec 8} (h : cmd ≠ 0x04) (b b' : Bus) :
    decode ⟨cmd, b⟩ = decode ⟨cmd, b'⟩ := by
  unfold decode
  cases hd : decodeWord cmd with
  | illegal why => rfl
  | legal op =>
    cases op with
    | loadState => exact absurd ((decodeWord_legal_iff cmd .loadState).1 hd) h
    | next | jump | longJump | readState => rfl

end Sys2Proof

namespace Sys2Proof.Machine

/-! The operand -/

/-- Performing a command looks at nothing of it but what it decodes to. -/
theorem perform_congr {c c' : Command} (h : decode c = decode c') (s : State) : perform c s = perform c' s := by
  rw [perform, perform, h]

/-- Settles O6: LOAD_STATE completes in every state with the words of its bus (`wordsOfBus_get`); every other word
decodes alike whatever `wdata` is. -/
theorem wdataReachesOnlyLoadState : Obligations.WdataReachesOnlyLoadState := by
  unfold Obligations.WdataReachesOnlyLoadState
  exact ⟨fun b s => ⟨_, perform_of_load (decode_four b) rfl s, wordsOfBus_get b⟩,
    fun cmd b b' s hcmd => perform_congr (decode_wdata_indifferent hcmd b b') s⟩

/-! The assembler -/

theorem isWordNumber_iff (w : Nat) : isWordNumber w = true ↔ w < 2 ^ 64 := decide_eq_true_iff

theorem assembleLine_eq_none {l : AsmLine} (h : l.wellFormed ≠ true) : assembleLine l = none := if_neg h

section
variable {v w0 w1 w2 w3 : Nat}

theorem loadState_wellFormed_iff : (AsmLine.loadState w0 w1 w2 w3).wellFormed = true ↔
    w0 < 2 ^ 64 ∧ w1 < 2 ^ 64 ∧ w2 < 2 ^ 64 ∧ w3 < 2 ^ 64 := by
  simp only [AsmLine.wellFormed, Bool.and_eq_true, isWordNumber_iff, and_assoc]

theorem rawCmdData_wellFormed_iff : (AsmLine.rawCmdData v w0 w1 w2 w3).wellFormed = true ↔
    v < 256 ∧ w0 < 2 ^ 64 ∧ w1 < 2 ^ 64 ∧ w2 < 2 ^ 64 ∧ w3 < 2 ^ 64 := by
  simp only [AsmLine.wellFormed, Bool.and_eq_true, decide_eq_true_iff, isWordNumber_iff, and_assoc]

/-- A `load_state` line assembles to the encoding of its instruction. -/
theorem assembleLine_loadState (h : (AsmLine.loadState w0 w1 w2 w3).wellFormed = true) :
    assembleLine (.loadState w0 w1 w2 w3) = some [encode (.loadState (BitVec.ofNat 64 w0) (BitVec.ofNat 64 w1)
      (BitVec.ofNat 64 w2) (BitVec.ofNat 64 w3))] := if_pos h

/-- `seed` is another name for `load_state` (30_encoding.md R67). -/
theorem assembleLine_seed : assembleLine (.seed w0 w1 w2 w3) = assembleLine (.loadState w0 w1 w2 w3) := rfl

theorem assembleLine_rawCmd (h : v < 256) : assembleLine (.rawCmd v) = some [⟨BitVec.ofNat 8 v, 0⟩] :=
  if_pos (decide_eq_true h)

theorem assembleLine_rawCmdData (h : (AsmLine.rawCmdData v w0 w1 w2 w3).wellFormed = true) :
    assembleLine (.rawCmdData v w0 w1 w2 w3) = some [⟨BitVec.ofNat 8 v, asmData w0 w1 w2 w3⟩] := if_pos h

end

theorem assembleLine_skip {n : Nat} (h : 1 ≤ n) : assembleLine (.skip n) = some (List.replicate n ⟨0x01, 0⟩) :=
  if_pos (decide_eq_true h)

/-- The numbers of words are packed as the words themselves (20_memory.md R41). -/
theorem asmData_toNat (w0 w1 w2 w3 : Word) :
    asmData w0.toNat w1.toNat w2.toNat w3.toNat = w3 ++ w2 ++ w1 ++ w0 := by
  simp only [asmData, BitVec.ofNat_toNat, BitVec.setWidth_eq, busOfWords]

/-- Settles O7: a line in range assembles to its commands (the `assembleLine_` lemmas, `decode_encode` for what they
decode to), and a line out of range is refused (`assembleLine_eq_none`). -/
theorem assemblerLinesAreTheirCommands : Obligations.AssemblerLinesAreTheirCommands := by
  unfold Obligations.AssemblerLinesAreTheirCommands
  refine ⟨rfl, rfl, rfl, rfl, fun w0 w1 w2 w3 => ⟨fun h => ?_, fun h => ?_⟩, fun v => ⟨fun h => ?_, fun h => ?_⟩,
    fun v w0 w1 w2 w3 hv => ?_, fun v w0 w1 w2 w3 h => ?_, rfl, fun n hn => ?_⟩
  · have hload := assembleLine_loadState (loadState_wellFormed_iff.2 h)
    exact ⟨_, hload, assembleLine_seed.trans hload, _, decode_encode _, rfl⟩
  · have hload : assembleLine (.loadState w0 w1 w2 w3) = none :=
      assembleLine_eq_none (mt loadState_wellFormed_iff.1 (by omega))
    exact ⟨hload, assembleLine_seed.trans hload⟩
  · exact ⟨_, assembleLine_rawCmd h, BitVec.toNat_ofNat v 8 ▸ Nat.mod_eq_of_lt h, rfl⟩
  · exact assembleLine_eq_none (mt decide_eq_true_iff.1 (Nat.not_lt.2 h))
  · rw [assembleLine_rawCmdData (rawCmdData_wellFormed_iff.2 ⟨hv, w0.isLt, w1.isLt, w2.isLt, w3.isLt⟩), asmData_toNat]
  · exact assembleLine_eq_none (mt rawCmdData_wellFormed_iff.1 (by omega))
  · refine ⟨_, assembleLine_skip hn, List.length_replicate, fun c hc => ?_⟩
    rw [List.eq_of_mem_replicate hc]
    exact decode_one 0

/-! The step -/

/-- A step on a queue that begins with a command performs it on the core that has accepted it. -/
theorem step_of_command {s : State} (hm : s.faultMark = none) {c : Command} {rest : List HostInput}
    (h : s.inputs = .command c :: rest) : step s = perform c (accept { s with inputs := rest }) := by
  obtain ⟨hnil, -⟩ | ⟨i, is, hcons, hstep⟩ := step_cases s
  · rw [hnil] at h
    cases h
  · rw [hcons] at h
    cases h
    exact hstep.trans (issue_of_unmarked (s := { s with inputs := rest }) hm _)

theorem step_of_no_input {s : State} (hm : s.faultMark = none) (h : s.inputs = []) : step s = .next (idleCycle s) := by
  obtain ⟨-, hstep⟩ | ⟨i, is, hcons, -⟩ := step_cases s
  · rw [hstep, issue_of_unmarked hm, takeInput_idle]
  · rw [hcons] at h
    cases h

theorem decode_of_decodeTableWord {nbits w : Nat} {i : Instr} (h : decodeTableWord nbits w = some i) :
    decode (tableCommand nbits w) = .command i := by
  unfold decodeTableWord at h
  split at h
  · next hd =>
    cases h
    exact hd
  · cases h

/-- Settles O40: `step_of_command`, with what performing the accepted command is; a command placed by
`State.withFetchWord` stands first in the queue. -/
theorem stepPerformsTheNextInput : Obligations.StepPerformsTheNextInput := by
  unfold Obligations.StepPerformsTheNextInput
  refine fun s hm => ⟨fun c i rest h hd => ?_, fun c rest h ⟨why, hd⟩ => ?_, step_of_no_input hm,
    fun nbits w i hd => ?_⟩
  · exact (step_of_command hm h).trans (perform_of_command hd _)
  · exact (step_of_command hm h).trans (perform_of_illegal hd _)
  · exact (step_of_command (s := s.withFetchWord nbits w) hm (withFetchWord_inputs s nbits w)).trans
      (perform_of_command (decode_of_decodeTableWord hd) _)

end Sys2Proof.Machine
end

section
/-! The rotate-left shifter: its value on the domain 1..63, its bits, and what follows from the bits
(40_rotl_shifter.md). -/

namespace Sys2Proof.Machine

/-! The checked rotate -/

theorem rotl64?_of_mem (x : Word) {k : Nat} (h : 1 ≤ k ∧ k ≤ 63) : rotl64? x k = some (rotl64 x ⟨k, h⟩) := dif_pos h

theorem rotl64?_of_not_mem (x : Word) {k : Nat} (h : ¬ (1 ≤ k ∧ k ≤ 63)) : rotl64? x k = none := dif_neg h

/-! The bits of a rotate -/

/-- On the domain the rotate is the library's. -/
theorem rotl64_eq_rotateLeft (x : Word) (k : RotAmount) : rotl64 x k = x.rotateLeft k.val := by
  have hk : k.val < 64 := Nat.lt_succ_of_le k.property.2
  rw [BitVec.rotateLeft_def, Nat.mod_eq_of_lt hk, rotl64]

/-- The place a rotate by `k` takes bit `j` from, `(j - k) mod 64` (40_rotl_shifter.md R82). -/
def rotlSource (k : RotAmount) (j : Nat) : Nat := (j + 64 - k.val) % 64

theorem rotlSource_lt (k : RotAmount) (j : Nat) : rotlSource k j < 64 := Nat.mod_lt _ (by decide)

theorem rotlSource_of_lt {k : RotAmount} {j : Nat} (h : j < k.val) : rotlSource k j = 64 - k.val + j := by
  have hk := k.property.2
  unfold rotlSource
  omega

theorem rotlSource_of_le {k : RotAmount} {j : Nat} (h : k.val ≤ j) (hj : j < 64) : rotlSource k j = j - k.val := by
  unfold rotlSource
  omega

/-- Two rotates take a bit from the place at the distance of both amounts together. -/
theorem rotlSource_rotlSource (a b : RotAmount) (j : Nat) :
    rotlSource a (rotlSource b j) = (j + 128 - (a.val + b.val)) % 64 := by
  have ha := a.property.2
  have hb := b.property.2
  unfold rotlSource
  omega

theorem getLsbD_rotl64 (x : Word) (k : RotAmount) {j : Nat} (hj : j < 64) :
    (rotl64 x k).getLsbD j = x.getLsbD (rotlSource k j) := by
  have hk : k.val < 64 := Nat.lt_succ_of_le k.property.2
  rw [rotl64_eq_rotateLeft, BitVec.getLsbD_rotateLeft_of_le hk]
  by_cases h : j < k.val
  · simp [h, rotlSource_of_lt h]
  · simp [h, hj, rotlSource_of_le (Nat.not_lt.1 h) hj]

theorem getLsbD_rotl64_rotl64 (x : Word) (a b : RotAmount) {j : Nat} (hj : j < 64) :
    (rotl64 (rotl64 x a) b).getLsbD j = x.getLsbD ((j + 128 - (a.val + b.val)) % 64) := by
  rw [getLsbD_rotl64 _ b hj, getLsbD_rotl64 _ a (rotlSource_lt b j), rotlSource_rotlSource]

/-! Rotates of one word -/

/-- A word whose bits are all alike is fixed by every rotate. -/
theorem rotl64_eq_self_of_bits_alike {x : Word} {b : Bool} (h : ∀ j < 64, x.getLsbD j = b) (k : RotAmount) :
    rotl64 x k = x :=
  BitVec.eq_of_getLsbD_eq fun j hj => by rw [getLsbD_rotl64 x k hj, h _ (rotlSource_lt k j), h j hj]

/-- The places a rotate takes its bits from are the 64 places, rotated. -/
theorem map_rotlSource_range (k : RotAmount) :
    (List.range 64).map (rotlSource k) = (List.range 64).rotate (64 - k.val) := by
  have hk : k.val ≤ 64 := Nat.le_succ_of_le k.property.2
  refine List.ext_getElem (by rw [List.length_map, List.length_rotate]) fun j _ _ => ?_
  rw [List.getElem_map, List.getElem_rotate, List.getElem_range, List.getElem_range, List.length_range, rotlSource,
    Nat.add_sub_assoc hk]

theorem popCount_rotl64 (x : Word) (k : RotAmount) : popCount (rotl64 x k) = popCount x := by
  have hbits : ∀ j ∈ List.range 64, (rotl64 x k).getLsbD j = (x.getLsbD ∘ rotlSource k) j :=
    fun j hj => getLsbD_rotl64 x k (List.mem_range.1 hj)
  have hperm : ((List.range 64).map (rotlSource k)).Perm (List.range 64) :=
    map_rotlSource_range k ▸ List.rotate_perm _ _
  calc popCount (rotl64 x k)
      = ((List.range 64).filter (x.getLsbD ∘ rotlSource k)).length :=
        congrArg List.length (List.filter_congr hbits)
    _ = (((List.range 64).map (rotlSource k)).filter x.getLsbD).length := by
        rw [List.filter_map, List.length_map]
    _ = popCount x := (hperm.filter _).length_eq

theorem rotl64_rotl64 (x : Word) {a b c : RotAmount} (h : c.val = a.val + b.val) :
    rotl64 (rotl64 x a) b = rotl64 x c := by
  refine BitVec.eq_of_getLsbD_eq fun j hj => ?_
  have hsource : (j + 128 - (a.val + b.val)) % 64 = rotlSource c j := by
    have hc := c.property.2
    unfold rotlSource
    omega
  rw [getLsbD_rotl64_rotl64 x a b hj, getLsbD_rotl64 x c hj, hsource]

theorem rotl64_rotl64_of_add_eq_64 (x : Word) {a b : RotAmount} (h : a.val + b.val = 64) :
    rotl64 (rotl64 x a) b = x := by
  refine BitVec.eq_of_getLsbD_eq fun j hj => ?_
  have hplace : (j + 128 - 64) % 64 = j := by omega
  rw [getLsbD_rotl64_rotl64 x a b hj, h, hplace]

/-- Settles O8: the value and the refusal by the domain's check, the corner cases by the bits (`getLsbD_rotl64`,
`rotl64_eq_self_of_bits_alike`), the worked example by evaluation. -/
theorem rotateHasItsValueOnItsDomain : Obligations.RotateHasItsValueOnItsDomain := by
  unfold Obligations.RotateHasItsValueOnItsDomain
  refine ⟨fun x k => ⟨rotl64?_of_mem x, fun h => rotl64?_of_not_mem x (by omega)⟩,
    fun x => ⟨getLsbD_rotl64 x _ (by decide), getLsbD_rotl64 x _ (by decide)⟩,
    fun k => ⟨rotl64_eq_self_of_bits_alike (b := false) ?_ k, rotl64_eq_self_of_bits_alike (b := true) ?_ k⟩,
    by decide⟩
  · exact fun j _ => BitVec.getLsbD_zero
  · decide

/-- Settles O9: `getLsbD_rotl64`, `popCount_rotl64` and `rotl64_rotl64`. -/
theorem rotateMovesBits : Obligations.RotateMovesBits := by
  unfold Obligations.RotateMovesBits
  exact ⟨fun x k _ => getLsbD_rotl64 x k, popCount_rotl64, fun x _ _ _ => rotl64_rotl64 x⟩

/-- Settles O10: the two amounts add up to 64 (`rotl64_rotl64_of_add_eq_64`). -/
theorem rotateBackGivesTheWord : Obligations.RotateBackGivesTheWord := by
  unfold Obligations.RotateBackGivesTheWord
  exact fun x k h => rotl64_rotl64_of_add_eq_64 x (Nat.add_sub_cancel' (Nat.le_succ_of_le h.2))

end Sys2Proof.Machine
end

section
/-! The next-state logic: the closed form of `nextFn`, its state part as a linear map over GF(2), when its output is 0,
and the NEXT command (41_next.md). -/

namespace Sys2Proof

/-! Tuples under XOR -/

@[ext] theorem Quad.ext_words {a b : Quad} (h0 : a.w0 = b.w0) (h1 : a.w1 = b.w1) (h2 : a.w2 = b.w2)
    (h3 : a.w3 = b.w3) : a = b := by
  cases a
  cases b
  simp_all only

@[simp] theorem Quad.zero_xor (a : Quad) : Quad.zero.xor a = a := by simp [Quad.zero, Quad.xor]

@[simp] theorem Quad.xor_zero (a : Quad) : a.xor Quad.zero = a := by simp [Quad.zero, Quad.xor]

@[simp] theorem Quad.xor_self (a : Quad) : a.xor a = Quad.zero := by simp [Quad.zero, Quad.xor]

theorem Quad.xor_assoc (a b c : Quad) : (a.xor b).xor c = a.xor (b.xor c) := by simp [Quad.xor, BitVec.xor_assoc]

theorem Quad.xor_comm (a b : Quad) : a.xor b = b.xor a := by simp [Quad.xor, BitVec.xor_comm]

end Sys2Proof

namespace Sys2Proof.Machine

theorem rotl64_xor (x y : Word) (k : RotAmount) : rotl64 (x ^^^ y) k = rotl64 x k ^^^ rotl64 y k :=
  BitVec.eq_of_getLsbD_eq fun j hj => by simp only [BitVec.getLsbD_xor, getLsbD_rotl64 _ k hj]

@[simp] theorem rotl64_zero (k : RotAmount) : rotl64 0 k = 0 :=
  rotl64_eq_self_of_bits_alike (b := false) (fun _ _ => BitVec.getLsbD_zero) k

/-- A rotate loses no bit: its inverse is the rotate by the rest of the way (40_rotl_shifter.md R84). -/
theorem rotl64_eq_zero_iff (x : Word) (k : RotAmount) : rotl64 x k = 0 ↔ x = 0 := by
  refine ⟨fun h => ?_, fun h => h ▸ rotl64_zero k⟩
  obtain ⟨hlow, hhigh⟩ := k.property
  have hback := rotl64_rotl64_of_add_eq_64 x (a := k) (b := ⟨64 - k.val, by omega⟩)
    (Nat.add_sub_cancel' (Nat.le_succ_of_le hhigh))
  rw [← hback, h, rotl64_zero]

/-! The two parts of `nextFn` -/

theorem nextOutput_eq (S : Quad) : nextOutput S = rotl64 (S.w1 * 5) ⟨7, by decide⟩ * 9 := rfl

/-- The state part word by word, each in the old words (41_next.md R92). -/
theorem nextState_eq (S : Quad) : nextState S =
    ⟨S.w0 ^^^ S.w1 ^^^ S.w3, S.w0 ^^^ S.w1 ^^^ S.w2, S.w0 ^^^ S.w2 ^^^ (S.w1 <<< 17),
      rotl64 (S.w1 ^^^ S.w3) ⟨45, by decide⟩⟩ := by
  have h0 : S.w0 ^^^ (S.w3 ^^^ S.w1) = S.w0 ^^^ S.w1 ^^^ S.w3 := by ac_rfl
  have h1 : S.w1 ^^^ (S.w2 ^^^ S.w0) = S.w0 ^^^ S.w1 ^^^ S.w2 := by ac_rfl
  rw [← h0, ← h1, BitVec.xor_comm S.w0 S.w2, BitVec.xor_comm S.w1 S.w3]
  rfl

/-- Settles O11: `nextOutput_eq` and `nextState_eq`. -/
theorem nextFnHasItsClosedForm : Obligations.NextFnHasItsClosedForm := by
  unfold Obligations.NextFnHasItsClosedForm
  exact fun s0 s1 s2 s3 => Prod.ext (nextOutput_eq _) (nextState_eq _)

/-- Every word of the state part is an XOR of shifted and rotated words, and both movements go through XOR. -/
theorem nextState_xor (a b : Quad) : nextState (a.xor b) = (nextState a).xor (nextState b) := by
  have regroup (x x' y y' : Word) : (x ^^^ x') ^^^ (y ^^^ y') = (x ^^^ y) ^^^ (x' ^^^ y') := by ac_rfl
  rw [nextState_eq, nextState_eq, nextState_eq]
  refine Quad.ext_words ?_ ?_ ?_ ?_ <;> dsimp only [Quad.xor]
  · rw [regroup a.w0, regroup]
  · rw [regroup a.w0, regroup]
  · rw [regroup, BitVec.shiftLeft_xor_distrib, regroup]
  · rw [regroup, rotl64_xor]

/-- Settles O12: `nextState_xor`; the outputs of word1 = 1 and word1 = 2 do not add up to that of word1 = 3. -/
theorem nextStateIsLinear : Obligations.NextStateIsLinear := by
  unfold Obligations.NextStateIsLinear
  exact ⟨nextState_xor, ⟨0, 1, 0, 0⟩, ⟨0, 2, 0, 0⟩, by decide⟩

@[simp] theorem nextState_zero : nextState Quad.zero = Quad.zero := by decide

/-- The scrambler is two multiplications by odd numbers with a rotate in between (41_next.md R94). -/
theorem nextOutput_eq_zero_iff (S : Quad) : nextOutput S = 0 ↔ S.w1 = 0 := by
  have hinner : (5 : Word) * 0xcccccccccccccccd = 1 := by decide
  have houter : (9 : Word) * 0x8e38e38e38e38e39 = 1 := by decide
  rw [nextOutput_eq, (IsUnit.of_mul_eq_one _ houter).mul_left_eq_zero, rotl64_eq_zero_iff,
    (IsUnit.of_mul_eq_one _ hinner).mul_left_eq_zero]

theorem nextFn_zero : nextFn Quad.zero = (0, Quad.zero) :=
  Prod.ext ((nextOutput_eq_zero_iff Quad.zero).2 rfl) nextState_zero

@[simp] theorem advance_zero_state (n : Nat) : advance n Quad.zero = Quad.zero :=
  Function.iterate_fixed nextState_zero n

/-- Settles O13: `nextOutput_eq_zero_iff`, and the all-zero state is a fixed point (`advance_zero_state`). -/
theorem nextOutputIsZeroExactlyWhenWordOneIs : Obligations.NextOutputIsZeroExactlyWhenWordOneIs := by
  unfold Obligations.NextOutputIsZeroExactlyWhenWordOneIs
  exact ⟨nextOutput_eq_zero_iff, nextFn_zero, fun n => (advance_zero_state n).symm ▸ nextFn_zero⟩

/-! The commands -/

/-- A meaning that answers a next state completed. -/
theorem eq_completed_of_exec {i : Instr} {s t : State} (h : exec i s = .next t) : t = completed i s := by
  rw [exec_eq] at h
  split at h
  · cases h
    rfl
  · cases h

/-- What no command touches: `cmd_ready`, the fault mark and the model's own fields (`exec_cases`). -/
theorem exec_frame {i : Instr} {s t : State} (h : exec i s = .next t) :
    t.cmdReady = s.cmdReady ∧ t.faultMark = s.faultMark ∧ t.inputs = s.inputs ∧ t.draws = s.draws := by
  obtain ⟨u, hu, -, -, hframe⟩ | ⟨-, hu⟩ := exec_cases i s <;> rw [hu] at h <;> cases h
  exact hframe

/-- No command but LOAD_STATE writes `S_written` (10_state.md R22). -/
theorem exec_written {i : Instr} {s t : State} (hi : isLoad i = false) (h : exec i s = .next t) :
    t.written = s.written := by
  rw [eq_completed_of_exec h, completed_written, hi, Bool.or_false]

/-- No command but JUMP and LONG_JUMP uses the engine (10_state.md R28). -/
theorem exec_engine {i : Instr} {s t : State} (h : exec i s = .next t) (hj : i ≠ .jump) (hl : i ≠ .longJump) :
    t.engine = s.engine := by
  rw [eq_completed_of_exec h]
  cases i with
  | next | loadState w0 w1 w2 w3 | readState => rfl
  | jump => exact absurd rfl hj
  | longJump => exact absurd rfl hl

/-- Settles O29: `exec_frame` for all five commands, `exec_written` and `exec_engine` for those they are about, and `S` by
what READ_STATE completes to. -/
theorem commandsChangeNothingElse : Obligations.CommandsChangeNothingElse := by
  unfold Obligations.CommandsChangeNothingElse
  refine fun s t => ⟨fun h => ?_, fun i hi h => ?_, fun w0 w1 w2 w3 h => ?_, fun h => ?_⟩ <;>
    obtain ⟨hready, hmark, hqueue, hdraws⟩ := exec_frame h
  · exact ⟨exec_written rfl h, hready, exec_engine h nofun nofun, hmark, hqueue, hdraws⟩
  · have hload : isLoad i = false := by obtain rfl | rfl := hi <;> rfl
    exact ⟨exec_written hload h, hready, hmark, hqueue, hdraws⟩
  · exact ⟨hready, exec_engine h nofun nofun, hmark, hqueue, hdraws⟩
  · have hS : t.S = s.S := by rw [eq_completed_of_exec h]; rfl
    exact ⟨hS, exec_written rfl h, hready, exec_engine h nofun nofun, hmark, hqueue, hdraws⟩

/-- Settles O21: the two outcomes of `exec_eq`; RDATA is 0 for word1 = 0 by `nextOutput_eq_zero_iff`. -/
theorem nextReturnsOutputAndAdvances : Obligations.NextReturnsOutputAndAdvances := by
  unfold Obligations.NextReturnsOutputAndAdvances
  refine ⟨decode_one, fun s hs => ?_, fun s hs => ?_, fun s t h => ?_, by decide⟩
  · exact (execNext_eq s).trans (if_neg (Bool.eq_false_iff.1 hs))
  · exact (execNext_eq s).trans (if_pos hs)
  · refine ⟨fun hw => ?_, fun hS => ?_, exec_written rfl h⟩ <;> rw [eq_completed_of_exec h]
    · exact congrArg rdataOfOutput ((nextOutput_eq_zero_iff s.S).2 hw)
    · exact (congrArg nextState hS).trans nextState_zero

end Sys2Proof.Machine
end

section
/-! The prime factors of the period 2^256 - 1 (95_test_vectors.md section 4 item 3). The larger ones are prime by Lucas's
test, given the prime factors of the number before each. -/

namespace Sys2Proof

/-- `lucas_primality` with the prime divisors of `p - 1` listed. -/
theorem prime_of_pow_ne_one {p : ℕ} (a : ZMod p) (qs : List ℕ) (k : ℕ) (hqs : ∀ q ∈ qs, q.Prime)
    (hp : p - 1 ∣ qs.prod ^ k) (ha : a ^ (p - 1) = 1) (hd : ∀ q ∈ qs, a ^ ((p - 1) / q) ≠ 1) : p.Prime := by
  refine lucas_primality p a ha fun q hq hqp => ?_
  obtain ⟨r, hr, hqr⟩ := hq.prime.dvd_prod_iff.1 (hq.dvd_of_dvd_pow (hqp.trans hp))
  obtain rfl := (Nat.prime_dvd_prime_iff_eq hq (hqs r hr)).1 hqr
  exact hd q hr

theorem prime_67280421310721 : Nat.Prime 67280421310721 :=
  prime_of_pow_ne_one 3 [2, 5, 47, 373, 2998279] 8 (by norm_num) (by norm_num) (by reduce_mod_char)
    (by simp only [List.forall_mem_cons]; reduce_mod_char; decide)

theorem prime_18533742247 : Nat.Prime 18533742247 :=
  prime_of_pow_ne_one 6 [2, 3, 181, 1896229] 3 (by norm_num) (by norm_num) (by reduce_mod_char)
    (by simp only [List.forall_mem_cons]; reduce_mod_char; decide)

theorem prime_116503103764643 : Nat.Prime 116503103764643 :=
  prime_of_pow_ne_one 2 [18533742247, 2, 7, 449] 1
    (List.forall_mem_cons.2 ⟨prime_18533742247, by norm_num⟩) (by norm_num) (by reduce_mod_char)
    (by simp only [List.forall_mem_cons]; reduce_mod_char; decide)

theorem prime_59649589127497217 : Nat.Prime 59649589127497217 :=
  prime_of_pow_ne_one 3 [116503103764643, 2] 9
    (List.forall_mem_cons.2 ⟨prime_116503103764643, by norm_num⟩) (by norm_num) (by reduce_mod_char)
    (by simp only [List.forall_mem_cons]; reduce_mod_char; decide)

theorem prime_733803839347 : Nat.Prime 733803839347 :=
  prime_of_pow_ne_one 2 [2, 3, 2203, 55515497] 1 (by norm_num) (by norm_num) (by reduce_mod_char)
    (by simp only [List.forall_mem_cons]; reduce_mod_char; decide)

theorem prime_5704689200685129054721 : Nat.Prime 5704689200685129054721 :=
  prime_of_pow_ne_one 21 [733803839347, 2, 3, 5, 12497] 9
    (List.forall_mem_cons.2 ⟨prime_733803839347, by norm_num⟩) (by norm_num) (by reduce_mod_char)
    (by simp only [List.forall_mem_cons]; reduce_mod_char; decide)

namespace Machine

/-- The prime factors of `period`, the largest first. -/
def periodPrimes : List ℕ :=
  [5704689200685129054721, 59649589127497217, 67280421310721, 6700417, 274177, 65537, 641, 257, 17, 5, 3]

theorem prod_periodPrimes : periodPrimes.prod = period := by decide +kernel

theorem prime_of_mem_periodPrimes : ∀ p ∈ periodPrimes, p.Prime := by
  simp only [periodPrimes, List.forall_mem_cons]
  exact ⟨prime_5704689200685129054721, prime_59649589127497217, prime_67280421310721, by norm_num⟩

end Machine

end Sys2Proof
end

section
/-! Powers of the state part of `nextFn`, computed as polynomials over GF(2). A polynomial is the number whose bit `j` is
the coefficient of `x ^ j`, and `x` stands for one application of `nextState`. Products are reduced by the
characteristic polynomial after each multiplication by `x`, which is sound on every state that it annihilates. -/

namespace Sys2Proof

theorem Quad.xor_xor_xor_comm (a b c d : Quad) : (a.xor b).xor (c.xor d) = (a.xor c).xor (b.xor d) := by
  rw [Quad.xor_assoc, Quad.xor_assoc, ← Quad.xor_assoc b, Quad.xor_comm b c, Quad.xor_assoc]

end Sys2Proof

namespace Sys2Proof.Machine

/-! Positions -/

theorem advance_succ (n : ℕ) (S : Quad) : advance (n + 1) S = nextState (advance n S) :=
  Function.iterate_succ_apply' nextState n S

theorem advance_add (m n : ℕ) (S : Quad) : advance (m + n) S = advance m (advance n S) :=
  Function.iterate_add_apply nextState m n S

/-! A polynomial applied to a state -/

/-- `S` times the coefficient `c` taken modulo 2. -/
def scale (c : ℕ) (S : Quad) : Quad := if c % 2 = 1 then S else Quad.zero

theorem scale_of_even {c : ℕ} (h : c % 2 = 0) (S : Quad) : scale c S = Quad.zero := if_neg (by omega)

theorem scale_of_odd {c : ℕ} (h : c % 2 = 1) (S : Quad) : scale c S = S := if_pos h

theorem scale_xor (c d : ℕ) (S : Quad) : scale (c ^^^ d) S = (scale c S).xor (scale d S) := by
  have hcd : (c ^^^ d) % 2 = (c + d) % 2 := Nat.xor_mod_two_eq
  obtain hc | hc := Nat.mod_two_eq_zero_or_one c <;> obtain hd | hd := Nat.mod_two_eq_zero_or_one d
  · rw [scale_of_even hc, scale_of_even hd, scale_of_even (by omega), Quad.zero_xor]
  · rw [scale_of_even hc, scale_of_odd hd, scale_of_odd (by omega), Quad.zero_xor]
  · rw [scale_of_odd hc, scale_of_even hd, scale_of_odd (by omega), Quad.xor_zero]
  · rw [scale_of_odd hc, scale_of_odd hd, scale_of_even (by omega), Quad.xor_self]

theorem nextState_scale (c : ℕ) (S : Quad) : nextState (scale c S) = scale c (nextState S) := by
  rw [scale, scale, apply_ite nextState, nextState_zero]

/-- The polynomial `p`, of which only the coefficients below `x ^ k` count, applied to `S`: the XOR of `advance j S` over
its set coefficients `j`, by Horner's rule. -/
def polyAt : ℕ → ℕ → Quad → Quad
  | 0, _, _ => Quad.zero
  | k + 1, p, S => (scale p S).xor (nextState (polyAt k (p / 2) S))

@[simp] theorem polyAt_no_terms (p : ℕ) (S : Quad) : polyAt 0 p S = Quad.zero := rfl

theorem polyAt_succ (k p : ℕ) (S : Quad) :
    polyAt (k + 1) p S = (scale p S).xor (nextState (polyAt k (p / 2) S)) := rfl

@[simp] theorem polyAt_zero (k : ℕ) (S : Quad) : polyAt k 0 S = Quad.zero := by
  induction k with
  | zero => rfl
  | succ k ih => rw [polyAt_succ, Nat.zero_div, ih, nextState_zero, scale_of_even rfl, Quad.zero_xor]

theorem polyAt_one (k : ℕ) (S : Quad) : polyAt (k + 1) 1 S = S := by
  rw [polyAt_succ, scale_of_odd rfl, Nat.div_eq_of_lt Nat.one_lt_two, polyAt_zero, nextState_zero, Quad.xor_zero]

theorem polyAt_xor (k p q : ℕ) (S : Quad) : polyAt k (p ^^^ q) S = (polyAt k p S).xor (polyAt k q S) := by
  induction k generalizing p q with
  | zero => exact (Quad.zero_xor Quad.zero).symm
  | succ k ih =>
    rw [polyAt_succ, scale_xor, Nat.xor_div_two, ih, nextState_xor, Quad.xor_xor_xor_comm, polyAt_succ, polyAt_succ]

/-- Multiplication by `x`. -/
theorem polyAt_two_mul (k p : ℕ) (S : Quad) : polyAt (k + 1) (2 * p) S = nextState (polyAt k p S) := by
  rw [polyAt_succ, scale_of_even (Nat.mul_mod_right 2 p), Quad.zero_xor, Nat.mul_div_cancel_left p Nat.two_pos]

theorem polyAt_mod_two_mul (k c p : ℕ) (S : Quad) : polyAt k (c % 2 * p) S = scale c (polyAt k p S) := by
  obtain hc | hc := Nat.mod_two_eq_zero_or_one c
  · rw [hc, Nat.zero_mul, polyAt_zero, scale_of_even hc]
  · rw [hc, Nat.one_mul, scale_of_odd hc]

/-- The highest term split off. -/
theorem polyAt_succ_last (k p : ℕ) (S : Quad) :
    polyAt (k + 1) p S = (polyAt k p S).xor (scale (p / 2 ^ k) (advance k S)) := by
  induction k generalizing p with
  | zero =>
    rw [polyAt_succ, polyAt_no_terms, polyAt_no_terms, nextState_zero, Quad.xor_zero, Quad.zero_xor, pow_zero,
      Nat.div_one]
    rfl
  | succ k ih =>
    rw [polyAt_succ, ih, nextState_xor, ← Quad.xor_assoc, ← polyAt_succ, nextState_scale, ← advance_succ,
      Nat.div_div_eq_div_mul, ← pow_succ']

theorem nextState_polyAt (k p : ℕ) (S : Quad) : nextState (polyAt k p S) = polyAt k p (nextState S) := by
  induction k generalizing p with
  | zero => exact nextState_zero
  | succ k ih => rw [polyAt_succ, nextState_xor, nextState_scale, ih, polyAt_succ]

theorem advance_polyAt (n k p : ℕ) (S : Quad) : advance n (polyAt k p S) = polyAt k p (advance n S) := by
  induction n with
  | zero => rfl
  | succ n ih => rw [advance_succ, ih, nextState_polyAt, advance_succ]

/-! Arithmetic modulo the characteristic polynomial

It is written with the functions on numbers by name and with a bare `Nat.rec`, which the kernel evaluates several times
faster than their operators and recursive equations. -/

/-- The characteristic polynomial of `nextState`, of degree 256. -/
def charPoly : ℕ := 0x10003c03c3f3ecb1904b4edcf26259f850280002bcefd1a5e9d116f2bb0f0f001

/-- `x * p` modulo `charPoly`. -/
def timesX (p : ℕ) : ℕ := Nat.xor (Nat.mul 2 p) (Nat.mul (Nat.mod (Nat.shiftRight p 255) 2) charPoly)

/-- `a * b` modulo `charPoly` where `a` has degree below `k`, by Horner's rule as in `polyAt`. -/
def mulMod (k a b : ℕ) : ℕ :=
  Nat.rec (fun _ => 0) (fun _ mulRest a => Nat.xor (Nat.mul (Nat.mod a 2) b) (timesX (mulRest (Nat.div a 2)))) k a

/-- `q ^ n` modulo `charPoly` by squaring, for `n < 2 ^ k`. -/
def powMod (q : ℕ) : ℕ → ℕ → ℕ
  | 0, _ => 1
  | k + 1, n =>
    if n % 2 = 1 then mulMod 256 q (mulMod 256 (powMod q k (n / 2)) (powMod q k (n / 2)))
    else mulMod 256 (powMod q k (n / 2)) (powMod q k (n / 2))

theorem timesX_eq (p : ℕ) : timesX p = (2 * p) ^^^ (p / 2 ^ 255 % 2 * charPoly) := by
  rw [← Nat.shiftRight_eq_div_pow]
  rfl

theorem mulMod_succ (k a b : ℕ) : mulMod (k + 1) a b = (a % 2 * b) ^^^ timesX (mulMod k (a / 2) b) := rfl

/-- `charPoly` annihilates `S`: its term of degree 256 and the rest of it take `S` to the same state. -/
def Annihilated (S : Quad) : Prop := polyAt 256 charPoly S = advance 256 S

section
variable {S : Quad} (hS : Annihilated S)
include hS

theorem polyAt_timesX (p : ℕ) : polyAt 256 (timesX p) S = nextState (polyAt 256 p S) := by
  have hchar : polyAt 256 charPoly S = advance 256 S := hS
  calc polyAt 256 (timesX p) S
      = (nextState (polyAt 255 p S)).xor (scale (p / 2 ^ 255) (advance 256 S)) := by
        rw [timesX_eq, polyAt_xor, polyAt_two_mul, polyAt_mod_two_mul, hchar]
    _ = nextState (polyAt 256 p S) := by
        rw [polyAt_succ_last 255, nextState_xor, nextState_scale, ← advance_succ]

theorem polyAt_mulMod (k a b : ℕ) : polyAt 256 (mulMod k a b) S = polyAt k a (polyAt 256 b S) := by
  induction k generalizing a with
  | zero => exact polyAt_zero 256 S
  | succ k ih => rw [mulMod_succ, polyAt_xor, polyAt_mod_two_mul, polyAt_timesX hS, ih, polyAt_succ k a]

/-- A product of polynomials stands for the sum of the distances its factors stand for. -/
theorem advance_add_eq_mulMod {a b m n : ℕ} (ha : advance m S = polyAt 256 a S) (hb : advance n S = polyAt 256 b S) :
    advance (m + n) S = polyAt 256 (mulMod 256 a b) S := by
  rw [polyAt_mulMod hS, ← hb, ← advance_polyAt, ← ha, ← advance_add, Nat.add_comm]

theorem advance_mul_eq_powMod {q m : ℕ} (hq : advance m S = polyAt 256 q S) {k n : ℕ} (hn : n < 2 ^ k) :
    advance (m * n) S = polyAt 256 (powMod q k n) S := by
  induction k generalizing n with
  | zero =>
    obtain rfl : n = 0 := by omega
    exact (polyAt_one 255 S).symm
  | succ k ih =>
    have hhalf := ih (n := n / 2) (by omega)
    have hsquare := advance_add_eq_mulMod hS hhalf hhalf
    have hsplit : m * n = m * (n % 2) + (m * (n / 2) + m * (n / 2)) := by
      rw [← Nat.mul_add, ← Nat.mul_add, ← two_mul, Nat.mod_add_div]
    rw [powMod, hsplit]
    split
    next hodd => rw [hodd, Nat.mul_one, advance_add_eq_mulMod hS hq hsquare]
    next heven => rw [Nat.mod_two_ne_one.1 heven, Nat.mul_zero, Nat.zero_add, hsquare]

end

end Sys2Proof.Machine
end

section
/-! The period of the generator: one non-zero state has the period 2^256 - 1, so its cycle takes in every non-zero
state (41_next.md R95). -/

namespace Sys2Proof.Machine

open Function

/-! The order of one state -/

/-- The state with bit 0 of word0 alone set. -/
def firstUnit : Quad := ⟨1, 0, 0, 0⟩

theorem annihilated_firstUnit : Annihilated firstUnit := by
  unfold Annihilated
  decide +kernel

/-- `q ^ n` modulo `charPoly`. -/
def power (q n : ℕ) : ℕ := powMod q (n.log2 + 1) n

theorem advance_mul_eq_power {q m : ℕ} (hq : advance m firstUnit = polyAt 256 q firstUnit) (n : ℕ) :
    advance (m * n) firstUnit = polyAt 256 (power q n) firstUnit :=
  advance_mul_eq_powMod annihilated_firstUnit hq Nat.lt_log2_self

/-- Whether `q`, a power of `x`, has the product of the primes `ps` as its order on `firstUnit`. Raised to the product
without the first prime it must move `firstUnit`; its power by the first prime is then tested with the other primes. -/
def orderTest : List ℕ → ℕ → Bool
  | [], q => q == 1
  | p :: ps, q => decide (polyAt 256 (power q ps.prod) firstUnit ≠ firstUnit) && orderTest ps (power q p)

theorem orderTest_periodPrimes : orderTest periodPrimes 2 = true := by decide +kernel

/-- If `f^[p]` has the period `n` at a point and `n` steps of `f` itself do not lead back, then `f` has the period `p * n`
there. -/
theorem minimalPeriod_eq_mul {α : Type*} {f : α → α} {x : α} {p n : ℕ} (hp : p.Prime)
    (hn : minimalPeriod f^[p] x = n) (hx : ¬ IsPeriodicPt f n x) : minimalPeriod f x = p * n := by
  rw [minimalPeriod_iterate_eq_div_gcd hp.ne_zero] at hn
  obtain hgcd | hgcd := (Nat.dvd_prime hp).1 (Nat.gcd_dvd_right (minimalPeriod f x) p)
  · rw [hgcd, Nat.div_one] at hn
    exact absurd (hn ▸ isPeriodicPt_minimalPeriod f x) hx
  · have hdvd : p ∣ minimalPeriod f x := hgcd ▸ Nat.gcd_dvd_left (minimalPeriod f x) p
    rw [← hn, hgcd, Nat.mul_div_cancel' hdvd]

theorem minimalPeriod_of_orderTest {ps : List ℕ} (hps : ∀ p ∈ ps, p.Prime) {q m : ℕ}
    (hq : advance m firstUnit = polyAt 256 q firstUnit) (h : orderTest ps q = true) :
    minimalPeriod nextState^[m] firstUnit = ps.prod := by
  induction ps generalizing q m with
  | nil =>
    obtain rfl : q = 1 := eq_of_beq h
    exact minimalPeriod_eq_one_iff_isFixedPt.2 (hq.trans (polyAt_one 255 firstUnit))
  | cons p ps ih =>
    obtain ⟨hp, hps⟩ := List.forall_mem_cons.1 hps
    obtain ⟨hmoves, hrest⟩ := Bool.and_eq_true_iff.1 h
    have hperiod := ih hps (advance_mul_eq_power hq p) hrest
    rw [iterate_mul] at hperiod
    refine minimalPeriod_eq_mul hp hperiod fun hfixed => of_decide_eq_true hmoves ?_
    rw [← advance_mul_eq_power hq, advance, iterate_mul]
    exact hfixed

theorem minimalPeriod_firstUnit : minimalPeriod nextState firstUnit = period := by
  have hx : advance 1 firstUnit = polyAt 256 2 firstUnit := by decide +kernel
  rw [← prod_periodPrimes]
  exact minimalPeriod_of_orderTest prime_of_mem_periodPrimes hx orderTest_periodPrimes

/-! The cycle -/

theorem period_pos : 0 < period := by decide

/-- A state that comes back after `n` steps was not all-zero before. -/
theorem advance_ne_zero_of_isPeriodicPt {S : Quad} (hS : S ≠ Quad.zero) {m n : ℕ} (hper : IsPeriodicPt nextState n S)
    (hm : m ≤ n) : advance m S ≠ Quad.zero := fun h => hS <| by
  have hback : advance (n - m + m) S = S := by rw [Nat.sub_add_cancel hm]; exact hper
  rw [← hback, advance_add, h, advance_zero_state]

theorem natCard_quad : Nat.card Quad = period + 1 := by
  have equiv : Quad ≃ Bus := ⟨busOfWords, wordsOfBus, wordsOfBus_busOfWords, busOfWords_wordsOfBus⟩
  rw [Nat.card_congr (equiv.trans BitVec.equivFin.toEquiv), Nat.card_fin]
  rfl

theorem finite_quad : Finite Quad := Nat.finite_of_card_ne_zero (natCard_quad ▸ Nat.succ_ne_zero period)

/-- A cycle of this period has as many states as there are non-zero ones. -/
theorem exists_advance_eq {S T : Quad} (hS : S ≠ Quad.zero) (hperiod : minimalPeriod nextState S = period)
    (hT : T ≠ Quad.zero) : ∃ n, n < period ∧ advance n S = T := by
  have := finite_quad
  have hinj : (Set.Iio period).InjOn (advance · S) := hperiod ▸ iterate_injOn_Iio_minimalPeriod
  have hcycle : (advance · S) '' Set.Iio period = {Quad.zero}ᶜ := by
    refine Set.eq_of_subset_of_ncard_le ?_ ?_
    · rintro _ ⟨n, hn, rfl⟩
      exact advance_ne_zero_of_isPeriodicPt hS (hperiod ▸ isPeriodicPt_minimalPeriod nextState S) (Set.mem_Iio.1 hn).le
    · rw [hinj.ncard_image, Set.ncard_Iio_nat, Set.ncard_compl, natCard_quad, Set.ncard_singleton, Nat.add_sub_cancel]
  exact hcycle.ge hT

theorem minimalPeriod_nextState {S : Quad} (hS : S ≠ Quad.zero) : minimalPeriod nextState S = period := by
  obtain ⟨n, -, rfl⟩ := exists_advance_eq (by decide) minimalPeriod_firstUnit hS
  have hmem : firstUnit ∈ periodicPts nextState :=
    minimalPeriod_pos_iff_mem_periodicPts.1 (minimalPeriod_firstUnit ▸ period_pos)
  exact (minimalPeriod_apply_iterate hmem n).trans minimalPeriod_firstUnit

theorem advance_period (S : Quad) : advance period S = S := by
  by_cases hS : S = Quad.zero
  · rw [hS, advance_zero_state]
  · exact minimalPeriod_nextState hS ▸ isPeriodicPt_minimalPeriod nextState S

theorem advance_ne_self {S : Quad} (hS : S ≠ Quad.zero) {n : ℕ} (hn : 0 < n) (hlt : n < period) : advance n S ≠ S :=
  not_isPeriodicPt_of_pos_of_lt_minimalPeriod hn.ne' (minimalPeriod_nextState hS ▸ hlt)

/-- One step less than the period undoes a step, before it and after it. -/
theorem nextState_bijective : Bijective nextState := by
  obtain ⟨n, hn⟩ := Nat.exists_eq_add_one_of_ne_zero period_pos.ne'
  have hreturn : ∀ S, advance (n + 1) S = S := fun S => hn ▸ advance_period S
  exact ⟨LeftInverse.injective (g := advance n) hreturn,
    fun S => ⟨advance n S, (advance_succ n S).symm.trans (hreturn S)⟩⟩

theorem advance_injective (n : ℕ) : Injective (advance n) := nextState_bijective.injective.iterate n

/-- No two of `period` states in a row are equal. -/
theorem advance_ne_advance {S : Quad} (hS : S ≠ Quad.zero) {m n : ℕ} (hmn : m < n) (hlt : n < m + period) :
    advance m S ≠ advance n S := by
  obtain ⟨d, rfl⟩ := Nat.exists_eq_add_of_lt hmn
  rw [Nat.add_assoc, advance_add]
  exact fun h => advance_ne_self hS d.succ_pos (by omega) (advance_injective m h).symm

theorem nextState_bijOn_nonzero : Set.BijOn nextState {S | S ≠ Quad.zero} {S | S ≠ Quad.zero} :=
  (Set.bijOn_singleton.2 nextState_zero).compl nextState_bijective

/-- Settles O14: the period is that of `firstUnit`, by Lucas's criterion for the order of `x` modulo `charPoly`
(`minimalPeriod_firstUnit`); by counting its cycle is all non-zero states. Word1 is 0 in (1, 0, 1, 0) and in the state
after it, so the output 0 repeats. -/
theorem nonzeroStatesAreOneCycle : Obligations.NonzeroStatesAreOneCycle := by
  unfold Obligations.NonzeroStatesAreOneCycle
  refine ⟨fun S hS => ⟨advance_period S, fun n => advance_ne_self hS, fun m n => advance_ne_advance hS⟩,
    fun S T hS hT => exists_advance_eq hS (minimalPeriod_nextState hS) hT, nextState_bijOn_nonzero,
    ⟨1, 0, 1, 0⟩, by decide, 0, 1, by decide, by decide, by decide⟩

end Sys2Proof.Machine
end

section
/-! `JumpWith` and the engine as polynomials in the state part of `nextFn`: the constant is the polynomial whose
coefficient `j` is its bit `j`, and the loops of 42_jump.md R110 and the engine's ticks apply it term by term (R111, R114, R118). -/

namespace Sys2Proof

/-! A constant as a polynomial -/

/-- The number a tuple packs to: the polynomial that a jump constant stands for. -/
def Quad.number (C : Quad) : ℕ := (busOfWords C).toNat

/-- The bits of a constant are counted as they lie on the bus (20_memory.md R42; 42_jump.md R111). -/
theorem Quad.testBit_number (C : Quad) {j : ℕ} (h : j < 256) : C.number.testBit j = C.bit j := by
  have hword : j / 64 < 4 := by omega
  have hplace : 64 * (j / 64) + j % 64 = j := Nat.div_add_mod j 64
  have hj : j % 64 < 64 := Nat.mod_lt j (by decide)
  rw [Quad.number, BitVec.testBit_toNat]
  conv_rhs => rw [← wordsOfBus_busOfWords C]
  simp only [Quad.bit, wordsOfBus_get, Fin.val_ofNat, Nat.mod_eq_of_lt hword, BitVec.getLsbD_extractLsb', hj,
    decide_true, Bool.true_and, hplace]

@[simp] theorem Quad.number_zero : Quad.zero.number = 0 := rfl

theorem Quad.number_xor (C D : Quad) : (C.xor D).number = C.number ^^^ D.number := by
  simp only [Quad.number, busOfWords, Quad.xor, ← BitVec.xor_append, BitVec.toNat_xor]

theorem number_unitConstant {j : ℕ} (h : j < 256) : (Machine.unitConstant j).number = 2 ^ j := by
  rw [Quad.number, Machine.unitConstant, busOfWords_wordsOfBus, BitVec.toNat_ofNat,
    Nat.mod_eq_of_lt (Nat.pow_lt_pow_right Nat.one_lt_two h)]

/-- The loop invariant of a loop over `range n`: `f` takes each value of `s` to the next. -/
theorem foldl_range_eq {α : Type*} {f : α → ℕ → α} {s : ℕ → α} {n : ℕ} (h : ∀ i < n, f (s i) i = s (i + 1)) :
    (List.range n).foldl f (s 0) = s n := by
  induction n with
  | zero => rfl
  | succ n ih =>
    rw [List.range_succ, List.foldl_append, ih fun i hi => h i (Nat.lt_succ_of_lt hi)]
    exact h n n.lt_succ_self

end Sys2Proof

namespace Sys2Proof.Machine

/-! Linearity of a polynomial in the state, and its single terms -/

theorem scale_xor_state (c : ℕ) (S T : Quad) : scale c (S.xor T) = (scale c S).xor (scale c T) := by
  obtain hc | hc := Nat.mod_two_eq_zero_or_one c
  · rw [scale_of_even hc, scale_of_even hc, scale_of_even hc, Quad.zero_xor]
  · rw [scale_of_odd hc, scale_of_odd hc, scale_of_odd hc]

theorem polyAt_xor_state (k p : ℕ) (S T : Quad) : polyAt k p (S.xor T) = (polyAt k p S).xor (polyAt k p T) := by
  induction k generalizing p with
  | zero => exact (Quad.zero_xor Quad.zero).symm
  | succ k ih =>
    rw [polyAt_succ, scale_xor_state, ih, nextState_xor, Quad.xor_xor_xor_comm, ← polyAt_succ, ← polyAt_succ]

@[simp] theorem polyAt_zero_state (k p : ℕ) : polyAt k p Quad.zero = Quad.zero := by
  rw [← Quad.xor_self Quad.zero, polyAt_xor_state, Quad.xor_self, Quad.xor_self]

theorem polyAt_two_pow {j k : ℕ} (h : j < k) (S : Quad) : polyAt k (2 ^ j) S = advance j S := by
  obtain ⟨k, rfl⟩ := Nat.exists_eq_add_one_of_ne_zero (Nat.ne_zero_of_lt h)
  induction j generalizing k with
  | zero => exact polyAt_one k S
  | succ j ih =>
    obtain ⟨k, rfl⟩ := Nat.exists_eq_add_one_of_ne_zero (Nat.ne_zero_of_lt (Nat.lt_of_succ_lt_succ h))
    rw [pow_succ', polyAt_two_mul, ih k (Nat.lt_of_succ_lt_succ h), advance_succ]

/-! The procedure and the engine, bit by bit -/

theorem xorAll_append_singleton (qs : List Quad) (q : Quad) : xorAll (qs ++ [q]) = (xorAll qs).xor q := by
  induction qs with
  | nil => exact Quad.xor_comm q Quad.zero
  | cons r rs ih =>
    calc xorAll (r :: rs ++ [q])
        = r.xor (xorAll (rs ++ [q])) := rfl
      _ = (xorAll (r :: rs)).xor q := by rw [ih, ← Quad.xor_assoc]; rfl

/-- The accumulator `A` and the working state `X` of 42_jump.md R110 with the constant bits below `k` done. -/
def progress (C S : Quad) (k : ℕ) : Quad × Quad := (polyAt k C.number S, advance k S)

section
variable (C S : Quad)

/-- What taking bit `k` adds to the terms below it. -/
theorem polyAt_number_succ {k : ℕ} (hk : k < 256) : polyAt (k + 1) C.number S =
    if C.bit k then (polyAt k C.number S).xor (advance k S) else polyAt k C.number S := by
  rw [polyAt_succ_last, ← C.testBit_number hk, Nat.testBit_eq_decide_div_mod_eq]
  by_cases hbit : C.number / 2 ^ k % 2 = 1
  · rw [scale_of_odd hbit, if_pos (decide_eq_true hbit)]
  · rw [scale_of_even (Nat.mod_two_ne_one.1 hbit), Quad.xor_zero, if_neg (by simpa using hbit)]

/-- The sum of 42_jump.md R111 over the bits below `k`. -/
theorem xorAll_bits_eq_polyAt {k : ℕ} (hk : k ≤ 256) :
    xorAll (((List.range k).filter fun j => C.bit j).map fun j => advance j S) = polyAt k C.number S := by
  induction k with
  | zero => rfl
  | succ k ih =>
    rw [polyAt_number_succ C S hk, ← ih (Nat.le_of_succ_le hk), List.range_succ, List.filter_append, List.map_append]
    cases hbit : C.bit k with
    | false => simp [hbit]
    | true => simp [hbit, xorAll_append_singleton]

theorem jumpBit_progress {w b : ℕ} (hw : w < 4) (hb : b < 64) :
    jumpBit (C.get (Fin.ofNat 4 w)) (progress C S (64 * w + b)) b = progress C S (64 * w + (b + 1)) := by
  have hbit : C.bit (64 * w + b) = (C.get (Fin.ofNat 4 w)).getLsbD b := by
    rw [Quad.bit, Nat.mul_add_div (by decide), Nat.div_eq_of_lt hb, Nat.add_zero, Nat.mul_add_mod, Nat.mod_eq_of_lt hb]
  rw [← Nat.add_assoc, progress, progress, polyAt_number_succ C S (by omega), hbit, advance_succ]
  rfl

theorem jumpWord_progress {w : ℕ} (hw : w < 4) :
    jumpWord C (progress C S (64 * w)) w = progress C S (64 * (w + 1)) :=
  foldl_range_eq (s := fun b => progress C S (64 * w + b)) fun _ hb => jumpBit_progress C S hw hb

/-- The two nested loops run through the constant's 256 bits in order. -/
theorem jumpWith_eq_polyAt : jumpWith C S = polyAt 256 C.number S :=
  congrArg Prod.fst (foldl_range_eq (s := fun w => progress C S (64 * w)) fun _ hw => jumpWord_progress C S hw)

end

/-- The engine with the constant bits below `k` taken (10_state.md R28; 42_jump.md R114). -/
theorem ticks_startEngine (sel : BitVec 1) (S : Quad) {k : ℕ} (hk : k ≤ 256) : ticks k (startEngine sel S) =
    { busy := 1, sel := sel, acc := polyAt k (selected sel).number S, idx := BitVec.ofNat 8 k
      work := advance k S } := by
  induction k with
  | zero => rfl
  | succ k ih =>
    have hidx : (BitVec.ofNat 8 k).toNat = k := Nat.mod_eq_of_lt hk
    rw [ticks_succ_last, ih (Nat.le_of_succ_le hk), polyAt_number_succ (selected sel) S hk, advance_succ,
      BitVec.ofNat_add, tickEngine, hidx]
    rfl

theorem ticks_startEngine_acc (sel : BitVec 1) (S : Quad) :
    (ticks 256 (startEngine sel S)).acc = jumpWith (selected sel) S := by
  rw [ticks_startEngine sel S (Nat.le_refl 256), jumpWith_eq_polyAt]

/-- Settles O15: the loops add up the terms of the constant's polynomial (`jumpWith_eq_polyAt`), and so does the sum
over its set bits. -/
theorem jumpWithIsAPolynomialInNext : Obligations.JumpWithIsAPolynomialInNext := by
  unfold Obligations.JumpWithIsAPolynomialInNext
  exact fun C S => (jumpWith_eq_polyAt C S).trans (xorAll_bits_eq_polyAt C S (Nat.le_refl 256)).symm

/-- Settles O16: a polynomial is linear in the state (`polyAt_xor_state`) and in its coefficients (`polyAt_xor`). -/
theorem jumpWithIsLinearInStateAndConstant : Obligations.JumpWithIsLinearInStateAndConstant := by
  unfold Obligations.JumpWithIsLinearInStateAndConstant
  simp only [jumpWith_eq_polyAt, Quad.number_xor, Quad.number_zero]
  exact ⟨fun C => polyAt_xor_state 256 C.number, fun C D => polyAt_xor 256 C.number D.number,
    fun C S => ⟨polyAt_zero_state 256 C.number, polyAt_zero 256 S⟩⟩

/-- Settles O17: a unit constant is a single term (`polyAt_two_pow`), and a polynomial in `nextState` commutes with it
(`nextState_polyAt`). -/
theorem jumpWithUnitConstantsAndCommutation : Obligations.JumpWithUnitConstantsAndCommutation := by
  unfold Obligations.JumpWithUnitConstantsAndCommutation
  simp only [jumpWith_eq_polyAt]
  refine ⟨fun j S hj => ?_, fun C S => (nextState_polyAt 256 C.number S).symm⟩
  rw [number_unitConstant hj, polyAt_two_pow hj]

/-- Settles O20: the engine after `k` ticks (`ticks_startEngine`), its accumulator read as the sum over the set bits. -/
theorem engineComputesJumpWith : Obligations.EngineComputesJumpWith := by
  unfold Obligations.EngineComputesJumpWith
  refine fun sel S => ⟨fun k hk => ?_, ticks_startEngine_acc sel S⟩
  rw [ticks_startEngine sel S hk, xorAll_bits_eq_polyAt (selected sel) S hk]
  exact ⟨rfl, rfl, rfl, rfl, rfl⟩

end Sys2Proof.Machine
end

section
/-! How far the two jumps go, and where the substreams they start overlap (42_jump.md R115, R119). What one non-zero
state shows of a polynomial holds of all of them, for they are one cycle (41_next.md R95). -/

namespace Sys2Proof.Machine

open Function

/-! Distances -/

/-- A polynomial that stands for `n` steps on `firstUnit` does so on every state. -/
theorem polyAt_eq_advance {p n : ℕ} (h : advance n firstUnit = polyAt 256 p firstUnit) (S : Quad) :
    polyAt 256 p S = advance n S := by
  by_cases hS : S = Quad.zero
  · rw [hS, polyAt_zero_state, advance_zero_state]
  · obtain ⟨m, -, rfl⟩ := exists_advance_eq (by decide) minimalPeriod_firstUnit hS
    rw [← advance_polyAt, ← h, ← advance_add, ← advance_add, Nat.add_comm]

theorem power_two_eq_jump : power 2 (2 ^ 128) = Config.jump.number := by decide +kernel

theorem power_jump_eq_longJump : power Config.jump.number (2 ^ 64) = Config.longJump.number := by decide +kernel

theorem advance_jump_firstUnit : advance (2 ^ 128) firstUnit = polyAt 256 Config.jump.number firstUnit := by
  have hx : advance 1 firstUnit = polyAt 256 2 firstUnit := (polyAt_two_pow (j := 1) (by decide) firstUnit).symm
  rw [← power_two_eq_jump, ← advance_mul_eq_power hx, Nat.one_mul]

theorem advance_longJump_firstUnit : advance (2 ^ 192) firstUnit = polyAt 256 Config.longJump.number firstUnit := by
  rw [← power_jump_eq_longJump, ← advance_mul_eq_power advance_jump_firstUnit, ← pow_add]

theorem jumpWith_jump (S : Quad) : jumpWith Config.jump S = advance (2 ^ 128) S :=
  (jumpWith_eq_polyAt Config.jump S).trans (polyAt_eq_advance advance_jump_firstUnit S)

theorem jumpWith_longJump (S : Quad) : jumpWith Config.longJump S = advance (2 ^ 192) S :=
  (jumpWith_eq_polyAt Config.longJump S).trans (polyAt_eq_advance advance_longJump_firstUnit S)

/-- Settles O18: the constants are x^(2^128) and x^(2^192) modulo `charPoly`, by repeated squaring
(`power_two_eq_jump`, `power_jump_eq_longJump`). -/
theorem jumpDistancesAreTwoToThe128And192 : Obligations.JumpDistancesAreTwoToThe128And192 := by
  unfold Obligations.JumpDistancesAreTwoToThe128And192
  refine fun S => ⟨jumpWith_jump S, jumpWith_longJump S, ?_⟩
  rw [jumpWith_jump, jumpWith_jump, ← advance_add, ← two_mul, ← pow_succ']

/-! Substreams -/

theorem laneStart_eq_advance (g l : ℕ) (R : Quad) : laneStart g l R = advance (g * 2 ^ 192 + l * 2 ^ 128) R := by
  have hjump : jumpWith Config.jump = advance (2 ^ 128) := funext jumpWith_jump
  have hlong : jumpWith Config.longJump = advance (2 ^ 192) := funext jumpWith_longJump
  have hmul (m n : ℕ) : (advance m)^[n] = advance (n * m) := by
    rw [Nat.mul_comm]
    exact (iterate_mul nextState m n).symm
  rw [laneStart, hjump, hlong, hmul, hmul, ← advance_add, Nat.add_comm]

/-- Among the positions 0 to `period` only the first and the last are the same state. -/
theorem advance_eq_advance_iff {S : Quad} (hS : S ≠ Quad.zero) {m n : ℕ} (hm : m ≤ period) (hn : n ≤ period) :
    advance m S = advance n S ↔ m = n ∨ (m = period ∧ n = 0) ∨ (n = period ∧ m = 0) := by
  constructor
  · intro h
    obtain hlt | heq | hgt := Nat.lt_trichotomy m n
    · have hfar := mt (advance_ne_advance hS hlt) (not_not.2 h)
      omega
    · exact .inl heq
    · have hfar := mt (advance_ne_advance hS hgt) (not_not.2 h.symm)
      omega
  · rintro (rfl | ⟨rfl, rfl⟩ | ⟨rfl, rfl⟩)
    · rfl
    · exact advance_period S
    · exact (advance_period S).symm

/-- Settles O19: position `k` of substream `(g, l)` is position `g * 2^192 + l * 2^128 + k` of the root's cycle
(`laneStart_eq_advance`), a number of three digits, and only position `period` comes back to position 0. -/
theorem substreamsOverlapOnlyAtTheTop : Obligations.SubstreamsOverlapOnlyAtTheTop := by
  unfold Obligations.SubstreamsOverlapOnlyAtTheTop
  refine fun R hR => ⟨fun g l _ _ => laneStart_eq_advance g l R, ?_⟩
  intro g l k g' l' k' hg hl hk hg' hl' hk'
  have hperiod : period = 2 ^ 256 - 1 := rfl
  rw [laneStart_eq_advance, laneStart_eq_advance, ← advance_add, ← advance_add,
    advance_eq_advance_iff hR (by omega) (by omega)]
  omega

end Sys2Proof.Machine
end

section
/-! The commands JUMP and LONG_JUMP (42_jump.md R114, R116, R117), said once for both by the constant `SEL` selects. -/

namespace Sys2Proof.Machine

theorem advance_eq_zero_iff (n : ℕ) (S : Quad) : advance n S = Quad.zero ↔ S = Quad.zero :=
  ⟨fun h => advance_injective n (h.trans (advance_zero_state n).symm), fun h => h ▸ advance_zero_state n⟩

/-- Both jumps keep the all-zero state, and no other state becomes all-zero (42_jump.md R116, R117). -/
theorem jumpWith_selected_eq_zero_iff (sel : BitVec 1) (S : Quad) :
    jumpWith (selected sel) S = Quad.zero ↔ S = Quad.zero := by
  unfold selected
  split
  · rw [jumpWith_jump, advance_eq_zero_iff]
  · rw [jumpWith_longJump, advance_eq_zero_iff]

theorem runJump_of_unwritten (sel : BitVec 1) {s : State} (hs : s.written = false) :
    runJump sel s = .fault .unwrittenState :=
  (runJump_eq sel s).trans (if_neg (Bool.eq_false_iff.1 hs))

theorem runJump_of_written (sel : BitVec 1) {s : State} (hs : s.written = true) :
    runJump sel s = .next { s with
      S := jumpWith (selected sel) s.S, err := 0, rdata := 0, rspValid := 1
      engine := finishedEngine (ticks 256 (startEngine sel s.S)) } := by
  rw [runJump_eq, if_pos hs, ticks_startEngine_acc]
  rfl

/-- The completion of a jump as 42_jump.md R116 and R117 state it. -/
theorem exists_runJump_of_written (sel : BitVec 1) {s : State} (hs : s.written = true) :
    ∃ t, runJump sel s = .next t ∧ t.S = jumpWith (selected sel) s.S ∧ t.err = 0 ∧ t.rdata = 0 ∧ t.written = true ∧
      (s.S = Quad.zero → t.S = Quad.zero) ∧ (s.S ≠ Quad.zero → t.S ≠ Quad.zero) :=
  have hzero := jumpWith_selected_eq_zero_iff sel s.S
  ⟨_, runJump_of_written sel hs, rfl, rfl, rfl, hs, hzero.2, mt hzero.1⟩

/-- Settles O22: the two outcomes of the engine's run (`runJump_of_unwritten`, `exists_runJump_of_written`); the worked
example by evaluation. -/
theorem jumpAdvancesTheState : Obligations.JumpAdvancesTheState := by
  unfold Obligations.JumpAdvancesTheState
  exact ⟨decode_two, fun s => runJump_of_unwritten 0, fun s => exists_runJump_of_written 0, by decide +kernel⟩

/-- Settles O23, as O22 with the other constant. -/
theorem longJumpAdvancesTheState : Obligations.LongJumpAdvancesTheState := by
  unfold Obligations.LongJumpAdvancesTheState
  exact ⟨decode_three, fun s => runJump_of_unwritten 1, fun s => exists_runJump_of_written 1, by decide +kernel⟩

/-- Settles O24: both are `runJump_of_written`, and the engine is idle again (`finishedEngine_busy`). -/
theorem jumpCommandsWriteTheAccumulator : Obligations.JumpCommandsWriteTheAccumulator := by
  unfold Obligations.JumpCommandsWriteTheAccumulator
  exact fun s hs => ⟨⟨_, finishedEngine_busy _, runJump_of_written 0 hs⟩,
    ⟨_, finishedEngine_busy _, runJump_of_written 1 hs⟩⟩

end Sys2Proof.Machine
end

section
/-! LOAD_STATE and READ_STATE (43_state_access.md R130 to R133), from what a completed command leaves. -/

namespace Sys2Proof.Machine

/-- LOAD_STATE completes in every state, with the words of its bus (43_state_access.md R130). -/
theorem perform_loadState (b : Bus) (s : State) :
    perform ⟨0x04, b⟩ s = .next (completed (loadOfBus b) s) :=
  perform_of_load (decode_four b) rfl s

/-- The state LOAD_STATE leaves is written, so a READ_STATE after it completes. -/
theorem perform_loadState_then_readState (v w : Bus) (s : State) :
    andThen (perform ⟨0x04, v⟩ s) (perform ⟨0x05, w⟩) =
      .next (completed .readState (completed (loadOfBus v) s)) := by
  rw [perform_loadState, andThen_next]
  exact perform_of_written (decode_five w) rfl

/-- READ_STATE answers the loaded words packed again, which are the bus they came on (43_state_access.md R133). -/
theorem completed_readState_loadState_rdata (v : Bus) (s : State) :
    (completed .readState (completed (loadOfBus v) s)).rdata = v :=
  busOfWords_wordsOfBus v

/-- Settles O27: READ_STATE completes after LOAD_STATE, and packing the words of `v` gives `v` back. -/
theorem loadThenReadReturnsTheData : Obligations.LoadThenReadReturnsTheData := by
  unfold Obligations.LoadThenReadReturnsTheData
  exact fun v w s => ⟨_, perform_loadState_then_readState v w s, completed_readState_loadState_rdata v s,
    completed_err .readState _⟩

/-- The bus of the worked examples carries the words 1, 2, 3, 4 (20_memory.md R41). -/
theorem wordsOfBus_1234 :
    wordsOfBus 0x0000000000000004000000000000000300000000000000020000000000000001 = ⟨1, 2, 3, 4⟩ := by decide

theorem wordsOfBus_zero : wordsOfBus 0 = Quad.zero := by decide

/-- Settles O25: one completion for every bus (`perform_loadState`), and the words of the two buses named. -/
theorem loadStateWritesAllFourWords : Obligations.LoadStateWritesAllFourWords := by
  unfold Obligations.LoadStateWritesAllFourWords
  refine ⟨decode_four, execLoadState_eq, perform_loadState, fun s => ?_, fun s => ?_⟩
  · exact ⟨_, perform_loadState 0 s, wordsOfBus_zero, rfl, rfl⟩
  · exact ⟨_, perform_loadState _ s, wordsOfBus_1234, rfl, rfl, rfl⟩

/-- LOAD_STATE, NEXT, READ_STATE: the load makes `S` written for the two readers, and the last one answers the state
NEXT moved to. -/
theorem perform_load_next_read (b w v : Bus) (s : State) : ∃ t,
    andThen (perform ⟨0x04, b⟩ s) (fun u => andThen (perform ⟨0x01, w⟩ u) (perform ⟨0x05, v⟩)) = .next t ∧
    t.rdata = busOfWords (nextState (wordsOfBus b)) := by
  have hnext : perform ⟨0x01, w⟩ (completed (loadOfBus b) s) =
      .next (completed .next (completed (loadOfBus b) s)) :=
    perform_of_written (decode_one w) rfl
  rw [perform_loadState, andThen_next, hnext, andThen_next]
  exact ⟨_, perform_of_written (decode_five v) rfl, rfl⟩

/-- Settles O26: the two outcomes of `execReadState_eq`; what a completed READ_STATE leaves, read again and for the
all-zero state; the worked example by one evaluation of `nextState`. -/
theorem readStateReturnsAllFourWords : Obligations.ReadStateReturnsAllFourWords := by
  unfold Obligations.ReadStateReturnsAllFourWords
  refine ⟨decode_five, fun s hs => ?_, fun s hs => ?_, fun s t u ht hu => ?_, fun s t ht hS => ?_, fun s w v => ?_⟩
  · exact (execReadState_eq s).trans (if_neg (Bool.eq_false_iff.1 hs))
  · exact (execReadState_eq s).trans (if_pos hs)
  · rw [eq_completed_of_exec hu, eq_completed_of_exec ht]
    exact ⟨rfl, rfl⟩
  · have hzero : busOfWords Quad.zero = 0 := by decide
    rw [eq_completed_of_exec ht]
    exact (congrArg busOfWords hS).trans hzero
  · obtain ⟨t, hrun, hrdata⟩ :=
      perform_load_next_read 0x0000000000000004000000000000000300000000000000020000000000000001 w v s
    refine ⟨t, hrun, ?_⟩
    rw [hrdata, wordsOfBus_1234]
    decide

end Sys2Proof.Machine
end

section
/-! The outcomes of a command and of a host's input, in the order of 60_exceptions.md R145: the illegal command's
response (R140, R141), the model fault of an unwritten state and its mark (R142, R143), the command's own rule; and the
clock edges that reset or idle (R152). -/

namespace Sys2Proof.Machine

/-! LOAD_STATE and the readers of `S` -/

theorem isLoad_eq_true_iff (i : Instr) : isLoad i = true ↔ ∃ w0 w1 w2 w3, i = .loadState w0 w1 w2 w3 := by
  cases i with
  | loadState w0 w1 w2 w3 => exact iff_of_true rfl ⟨w0, w1, w2, w3, rfl⟩
  | next | jump | longJump | readState => exact iff_of_false Bool.false_ne_true nofun

theorem isLoad_eq_false_iff (i : Instr) : isLoad i = false ↔ ∀ w0 w1 w2 w3, i ≠ .loadState w0 w1 w2 w3 := by
  rw [← Bool.not_eq_true, isLoad_eq_true_iff]
  simp only [not_exists, ne_eq]

/-- The readers are the four commands besides LOAD_STATE. -/
theorem decode_reader_iff (c : Command) :
    (decode c = .command .next ∨ decode c = .command .jump ∨ decode c = .command .longJump ∨
      decode c = .command .readState) ↔ ∃ i, decode c = .command i ∧ isLoad i = false := by
  constructor
  · rintro (hd | hd | hd | hd) <;> exact ⟨_, hd, rfl⟩
  · rintro ⟨i, hd, hi⟩
    cases i with
    | next => exact .inl hd
    | jump => exact .inr (.inl hd)
    | longJump => exact .inr (.inr (.inl hd))
    | loadState w0 w1 w2 w3 => cases hi
    | readState => exact .inr (.inr (.inr hd))

/-! The outcomes of a command -/

theorem exec_of_written_or_load {i : Instr} {s : State} (h : s.written = true ∨ isLoad i = true) :
    exec i s = .next (completed i s) := by
  rw [exec_eq, if_pos (Bool.or_eq_true_iff.2 h)]

/-- The one way to the model fault (60_exceptions.md R143). -/
theorem perform_eq_fault {c : Command} {s : State} {f : Fault} (h : perform c s = .fault f) :
    s.written = false ∧ f = .unwrittenState ∧ ∃ i, decode c = .command i ∧ isLoad i = false := by
  cases hd : decode c with
  | illegal why =>
    rw [perform_of_illegal hd] at h
    cases h
  | command i =>
    rw [perform_of_command hd, exec_eq] at h
    split at h
    · cases h
    · next hrun =>
      cases h
      obtain ⟨hs, hi⟩ := Bool.or_eq_false_iff.1 (Bool.eq_false_iff.2 hrun)
      exact ⟨hs, rfl, i, rfl, hi⟩

theorem perform_ne_refused (c : Command) (s : State) (r : Refusal) : perform c s ≠ .refused r := by
  intro h
  cases hd : decode c with
  | illegal why =>
    rw [perform_of_illegal hd] at h
    cases h
  | command i =>
    rw [perform_of_command hd] at h
    obtain ⟨t, ht, -⟩ | ⟨-, ht⟩ := exec_cases i s <;> rw [ht] at h <;> cases h

/-- Settles O31: the response of `perform_of_illegal` does not speak of the command; a legal command performed after it
completes with `ERR = 0`. -/
theorem illegalCommandOnlyResponds : Obligations.IllegalCommandOnlyResponds := by
  unfold Obligations.IllegalCommandOnlyResponds
  refine ⟨fun c s ⟨why, hc⟩ => perform_of_illegal hc s, fun c d s ⟨why, hc⟩ ⟨why', hd⟩ => ?_,
    fun c d s t i _ hd h => ?_⟩
  · exact (perform_of_illegal hc s).trans (perform_of_illegal hd s).symm
  · obtain ⟨u, -, ht⟩ := (andThen_eq_next_iff _ _ _).1 h
    rw [eq_completed_of_perform hd ht]
    exact completed_err i u

/-- Settles O32: a command that answers a next state is illegal and leaves `ERR = 1` with no data
(`illegalCommand_err`, `illegalCommand_rdata`), or decodes and leaves `ERR = 0` (`completed_err`). -/
theorem errReportsExactlyTheIllegalCommands : Obligations.ErrReportsExactlyTheIllegalCommands := by
  unfold Obligations.ErrReportsExactlyTheIllegalCommands
  intro c s t h
  obtain ⟨why, hd, rfl⟩ | ⟨i, hd, rfl⟩ := perform_eq_next h
  · simp [hd]
  · simp [hd]

/-- Settles O33: the readers are the commands that decode and are not LOAD_STATE (`decode_reader_iff`), which fault by
`perform_of_unwritten`, and nothing else does (`perform_eq_fault`). -/
theorem unwrittenStateFaultsTheReaders : Obligations.UnwrittenStateFaultsTheReaders := by
  unfold Obligations.UnwrittenStateFaultsTheReaders
  refine ⟨fun c s hs hc => ?_, fun c s f h => ?_⟩
  · obtain ⟨i, hd, hi⟩ := (decode_reader_iff c).1 hc
    have hfault := perform_of_unwritten hs hd hi
    rw [hfault]
    exact ⟨rfl, rfl, rfl, rfl, rfl⟩
  · obtain ⟨hs, hf, hreader⟩ := perform_eq_fault h
    exact ⟨hs, hf, (decode_reader_iff c).2 hreader⟩

/-! The fault mark -/

theorem laneAfter_of_fault {s : State} {i : HostInput} {f : Fault} (h : issue i s = .fault f) :
    laneAfter s i = recordFault f s := by
  rw [laneAfter, h]
  rfl

theorem recordFault_of_mark {s : State} {f : Fault} (h : s.faultMark = some f) : recordFault f s = s := by
  rw [recordFault, ← h]

/-- A marked core is stuck as it is (60_exceptions.md R142). -/
theorem foldl_laneAfter_of_mark {s : State} {f : Fault} (h : s.faultMark = some f) (is : List HostInput) :
    is.foldl laneAfter s = s :=
  List.foldl_fixed' (fun i => (laneAfter_of_fault (issue_of_mark h i)).trans (recordFault_of_mark h)) is

theorem step_of_mark {s : State} {f : Fault} (h : s.faultMark = some f) : step s = .fault f := by
  obtain ⟨-, hstep⟩ | ⟨i, is, -, hstep⟩ := step_cases s
  · exact hstep.trans (issue_of_mark h _)
  · exact hstep.trans (issue_of_mark (s := { s with inputs := is }) h i)

theorem fault_eq_unwrittenState (f : Fault) : f = .unwrittenState := by cases f; rfl

theorem takeInput_ne_refused (i : HostInput) (s : State) (r : Refusal) : takeInput i s ≠ .refused r := by
  cases i with
  | command c => exact perform_ne_refused c (accept s) r
  | idle | reset | resetDuring c => nofun

theorem issue_ne_refused (i : HostInput) (s : State) (r : Refusal) : issue i s ≠ .refused r := by
  cases hm : s.faultMark with
  | none => exact issue_of_unmarked hm i ▸ takeInput_ne_refused i s r
  | some f => exact issue_of_mark hm i ▸ nofun

/-- Settles O34: a marked core is a fixed point of every input (`foldl_laneAfter_of_mark`), a fault is recorded
(`laneAfter_of_fault`), nothing is refused (`issue_ne_refused`), and `rotl64?` has no value off its domain. -/
theorem faultMarkIsNeverCleared : Obligations.FaultMarkIsNeverCleared := by
  unfold Obligations.FaultMarkIsNeverCleared
  refine ⟨fun s f hm => ⟨issue_of_mark hm, step_of_mark hm, fun is => ?_⟩, fun i s f h => ?_, issue_ne_refused,
    fun x k hk => rotl64?_of_not_mem x (by omega)⟩
  · rw [foldl_laneAfter_of_mark hm]
    exact ⟨hm, rfl, rfl, rfl⟩
  · rw [laneAfter_of_fault h]
    exact ⟨fault_eq_unwrittenState f, rfl⟩

/-- A reset during a command leaves nothing of its acceptance (70_reset_and_hazards.md R162). -/
theorem takeInput_of_reset {i : HostInput} (hi : i = .reset ∨ ∃ c, i = .resetDuring c) (s : State) :
    takeInput i s = .next (resetCore s) := by
  obtain rfl | ⟨c, rfl⟩ := hi
  · exact takeInput_reset s
  · exact takeInput_resetDuring c s

/-- Settles O35: a reset by `takeInput_of_reset`, an idle cycle by its definition, a command by what it decodes to; the
two ways a legal command ends are `perform_of_unwritten` and `exec_of_written_or_load`. -/
theorem outcomesHaveTheirPriority : Obligations.OutcomesHaveTheirPriority := by
  unfold Obligations.OutcomesHaveTheirPriority
  refine fun s hm => ⟨fun i hi => ?_, issue_of_unmarked hm .idle, fun c ⟨why, hd⟩ => ?_,
    fun c i hd => ⟨fun hs hi => ?_, fun hrun => ?_⟩⟩
  · exact ⟨_, _, _, resetCore_engine_busy s, (issue_of_unmarked hm i).trans (takeInput_of_reset hi s)⟩
  · exact (issue_of_unmarked hm _).trans (perform_of_illegal hd (accept s))
  · have hfault : issue (.command c) s = .fault .unwrittenState :=
      (issue_of_unmarked hm _).trans
        (perform_of_unwritten (s := accept s) hs hd ((isLoad_eq_false_iff i).2 hi))
    exact ⟨hfault, laneAfter_of_fault hfault⟩
  · rw [← isLoad_eq_true_iff] at hrun
    exact ⟨(issue_of_unmarked hm _).trans (perform_of_command hd (accept s)),
      _, exec_of_written_or_load (s := accept s) hrun⟩

/-! Clock edges that reset or idle -/

section
variable {T : Config.Timing} {p : Pins} {s : State} (hm : s.faultMark = none)
include hm

/-- Reset comes before a command in flight (60_exceptions.md R145). -/
theorem edge_of_rst (hp : p.rst = 1) (flight : Option Flight) : edge T p ⟨s, flight⟩ = .next ⟨resetCore s, none⟩ := by
  simp [edge, hm, hp]

theorem edge_of_idle (hp : p.rst = 0 ∧ p.cmdValid = 0) : edge T p ⟨s, none⟩ = .next ⟨idleCycle s, none⟩ := by
  obtain ⟨hrst, hvalid⟩ := hp
  simp [edge, hm, hrst, hvalid]

/-- After one idle edge further ones change nothing. -/
theorem edges_of_idle (ps : List Pins) (hps : ∀ p ∈ ps, p.rst = 0 ∧ p.cmdValid = 0) :
    edges T ps ⟨idleCycle s, none⟩ = .next ⟨idleCycle s, none⟩ := by
  induction ps with
  | nil => rfl
  | cons p ps ih =>
    obtain ⟨hp, hps⟩ := List.forall_mem_cons.1 hps
    exact (edges_cons_of_next (edge_of_idle (s := idleCycle s) hm hp) ps).trans (ih hps)

end

/-- Settles O51: the first edge is an idle cycle (`edge_of_idle`), and the others keep what it leaves
(`edges_of_idle`). -/
theorem idleInstanceHolds : Obligations.IdleInstanceHolds := by
  unfold Obligations.IdleInstanceHolds
  intro T s ps hm hps hne
  cases ps with
  | nil => exact absurd rfl hne
  | cons p ps =>
    obtain ⟨hp, hps⟩ := List.forall_mem_cons.1 hps
    exact (edges_cons_of_next (edge_of_idle hm hp) ps).trans (edges_of_idle hm ps hps)

/-- Settles O53: `edge_of_rst`, then the outcomes of a command in their order: `perform_of_illegal` in every state,
`perform_of_unwritten`, `exec_of_written_or_load`. -/
theorem stepTestsInPriorityOrder : Obligations.StepTestsInPriorityOrder := by
  unfold Obligations.StepTestsInPriorityOrder
  refine ⟨fun T p s f hm hp => ?_, fun c s ⟨why, hd⟩ => ?_, fun c s i hd => ⟨fun hs hi => ?_, fun hrun => ?_⟩⟩
  · exact ⟨_, edge_of_rst hm hp (some f), resetCore_written s, resetCore_err s, resetCore_rdata s,
      resetCore_engine_busy s⟩
  · exact ⟨_, perform_of_illegal hd s, illegalCommand_err s, illegalCommand_rdata s, illegalCommand_S s,
      illegalCommand_written s, illegalCommand_engine s, fun q b => perform_of_illegal hd _⟩
  · exact perform_of_unwritten hs hd ((isLoad_eq_false_iff i).2 hi)
  · rw [← isLoad_eq_true_iff] at hrun
    exact ⟨perform_of_command hd s, _, exec_of_written_or_load hrun⟩

end Sys2Proof.Machine
end

section
/-! Reset and the hazards of 70_reset_and_hazards.md: the values of a reset at an edge and in a run (R160, R162), and the
all-zero state, which no command but LOAD_STATE enters or leaves (R163, R164). -/

namespace Sys2Proof.Machine

/-! The all-zero state -/

@[simp] theorem busOfWords_zero : busOfWords Quad.zero = 0 := by decide

theorem wordsOfBus_eq_zero_iff (b : Bus) : wordsOfBus b = Quad.zero ↔ b = 0 :=
  ⟨fun h => by rw [← busOfWords_wordsOfBus b, h, busOfWords_zero], fun h => h ▸ wordsOfBus_zero⟩

theorem jumped_S_eq_zero_iff (sel : BitVec 1) (s : State) : (jumped sel s).S = Quad.zero ↔ s.S = Quad.zero := by
  rw [jumped, respond_S, ticks_startEngine_acc, jumpWith_selected_eq_zero_iff]

section
variable {i : Instr} (hi : isLoad i = false)
include hi

/-- NEXT and the jumps move `S` by injective maps that fix the all-zero state; READ_STATE does not move it. -/
theorem completed_S_eq_zero_iff (s : State) : (completed i s).S = Quad.zero ↔ s.S = Quad.zero := by
  cases i with
  | next => exact advance_eq_zero_iff 1 s.S
  | jump => exact jumped_S_eq_zero_iff 0 s
  | longJump => exact jumped_S_eq_zero_iff 1 s
  | loadState w0 w1 w2 w3 => cases hi
  | readState => rfl

theorem completed_rdata_of_zero {s : State} (hS : s.S = Quad.zero) : (completed i s).rdata = 0 := by
  cases i with
  | next => exact congrArg rdataOfOutput ((nextOutput_eq_zero_iff s.S).2 (congrArg Quad.w1 hS))
  | jump | longJump => rfl
  | loadState w0 w1 w2 w3 => cases hi
  | readState => exact (congrArg busOfWords hS).trans busOfWords_zero

end

section
variable {c : Command} {s t : State} (hc : c.cmd ≠ 0x04)
include hc

/-- `perform_eq_next` for a command word other than LOAD_STATE's. -/
theorem perform_eq_next_of_not_load (h : perform c s = .next t) :
    t = illegalCommand s ∨ ∃ i, isLoad i = false ∧ t = completed i s := by
  obtain ⟨why, -, rfl⟩ | ⟨i, hd, rfl⟩ := perform_eq_next h
  · exact .inl rfl
  · exact .inr ⟨i, Bool.eq_false_iff.2 (mt (isLoad_iff_of_decode hd).1 hc), rfl⟩

theorem perform_S_eq_zero_iff (h : perform c s = .next t) : t.S = Quad.zero ↔ s.S = Quad.zero := by
  obtain rfl | ⟨i, hi, rfl⟩ := perform_eq_next_of_not_load hc h
  · rw [illegalCommand_S]
  · exact completed_S_eq_zero_iff hi s

theorem perform_rdata_of_zero (hS : s.S = Quad.zero) (h : perform c s = .next t) : t.rdata = 0 := by
  obtain rfl | ⟨i, hi, rfl⟩ := perform_eq_next_of_not_load hc h
  · exact illegalCommand_rdata s
  · exact completed_rdata_of_zero hi hS

end

/-- Settles O37: `perform_S_eq_zero_iff` and `perform_rdata_of_zero` for every other command; LOAD_STATE leaves the words
of its bus (`perform_loadState`), which are all 0 exactly on the bus 0. -/
theorem allZeroIsReachedOnlyByLoadingIt : Obligations.AllZeroIsReachedOnlyByLoadingIt := by
  unfold Obligations.AllZeroIsReachedOnlyByLoadingIt
  exact ⟨fun c s t hc h => perform_S_eq_zero_iff hc h, fun c s t hS hc h => perform_rdata_of_zero hc hS h,
    fun b s => ⟨_, perform_loadState b s, completed_err _ s, wordsOfBus_eq_zero_iff b⟩⟩

/-! Seeded cores -/

theorem exists_perform_of_written (c : Command) {s : State} (hs : s.written = true) : ∃ t, perform c s = .next t := by
  cases hd : decode c with
  | illegal why => exact ⟨_, perform_of_illegal hd s⟩
  | command i => exact ⟨_, perform_of_written hd hs⟩

@[simp] theorem completed_faultMark (i : Instr) (s : State) : (completed i s).faultMark = s.faultMark := by
  cases i <;> rfl

theorem perform_faultMark {c : Command} {s t : State} (h : perform c s = .next t) : t.faultMark = s.faultMark := by
  obtain ⟨why, -, rfl⟩ | ⟨i, -, rfl⟩ := perform_eq_next h
  · exact illegalCommand_faultMark s
  · exact completed_faultMark i s

theorem issue_of_seeded {c : Command} (hc : c.cmd ≠ 0x04) {s : State} (hs : s.seeded) (hm : s.faultMark = none) :
    ∃ t, issue (.command c) s = .next t ∧ t.seeded ∧ t.faultMark = none := by
  obtain ⟨hwritten, hne⟩ := hs
  obtain ⟨t, ht⟩ := exists_perform_of_written c (s := accept s) hwritten
  obtain ⟨-, hkeep⟩ := perform_written ht
  exact ⟨t, (issue_of_unmarked hm _).trans ht,
    ⟨(hkeep hc).trans hwritten, mt (perform_S_eq_zero_iff hc ht).1 hne⟩, (perform_faultMark ht).trans hm⟩

/-- Settles O44, by induction on the list of commands: each completes and leaves the core seeded
(`issue_of_seeded`). -/
theorem seededInstancesKeepRunning : Obligations.SeededInstancesKeepRunning := by
  unfold Obligations.SeededInstancesKeepRunning
  intro s hs hm cs hcs
  induction cs generalizing s with
  | nil => exact ⟨s, rfl, hs, hm⟩
  | cons c cs ih =>
    obtain ⟨hc, hcs⟩ := List.forall_mem_cons.1 hcs
    obtain ⟨u, hu, hseeded, hmark⟩ := issue_of_seeded hc hs hm
    rw [List.map_cons, issueAll_cons, hu, andThen_next]
    exact ih u hseeded hmark hcs

/-! Reset -/

theorem issue_of_reset {i : HostInput} (hi : i = .reset ∨ ∃ c, i = .resetDuring c) {s : State}
    (hm : s.faultMark = none) : issue i s = .next (resetCore s) :=
  (issue_of_unmarked hm i).trans (takeInput_of_reset hi s)

theorem portsOf_cmdReady_of_rst {p : Pins} (hp : p.rst = 1) (c : CycleState) : (portsOf p c).cmdReady = 0 := if_pos hp

theorem portsOf_cmdReady_of_no_rst {p : Pins} (hp : p.rst = 0) (c : CycleState) :
    (portsOf p c).cmdReady = c.core.cmdReady :=
  if_neg (by simp [hp])

/-- Settles O39: whatever is in flight, the edge leaves `resetCore` and no flight (`edge_of_rst`), as the reset of a run
does (`issue_of_reset`); what `resetCore` leaves is unwritten, so every reader faults (`perform_of_unwritten`). -/
theorem resetAbandonsTheCommandInFlight : Obligations.ResetAbandonsTheCommandInFlight := by
  unfold Obligations.ResetAbandonsTheCommandInFlight
  refine ⟨fun T p s f hm hp => ?_, fun c s hm => ?_⟩
  · refine ⟨_, edge_of_rst hm hp (some f), resetCore_rspValid s, resetCore_written s, resetCore_err s,
      resetCore_rdata s, resetCore_engine_busy s, resetCore_cmdReady s, fun d hd => ?_⟩
    obtain ⟨i, hdecode, hi⟩ := decode_reader hd
    exact perform_of_unwritten (resetCore_written s) hdecode hi
  · exact ⟨_, issue_of_reset (.inr ⟨c, rfl⟩) hm, resetCore_rspValid s, resetCore_written s, resetCore_err s,
      resetCore_rdata s, resetCore_engine_busy s, resetCore_cmdReady s⟩

/-- Settles O38: the fields of `State.reset` and of `resetCore`, which a reset leaves in a run (`issue_of_reset`) and at an
edge (`edge_of_rst`); `cmd_ready` is masked while `rst = 1`, and the register behind it holds 1 by then. -/
theorem resetTakesItsValues : Obligations.ResetTakesItsValues := by
  unfold Obligations.ResetTakesItsValues
  refine ⟨?_, fun s hm => ?_, fun T p c hm hp => ⟨portsOf_cmdReady_of_rst hp c, ?_⟩⟩
  · exact ⟨reset_written, reset_err, reset_rdata, reset_engine_busy, reset_rspValid, reset_cmdReady⟩
  · exact ⟨_, issue_of_reset (.inl rfl) hm, resetCore_written s, resetCore_err s, resetCore_rdata s,
      resetCore_engine_busy s, resetCore_rspValid s, resetCore_cmdReady s⟩
  · exact ⟨_, edge_of_rst hm hp c.flight, resetCore_written c.core, resetCore_err c.core, resetCore_rdata c.core,
      resetCore_engine_busy c.core, resetCore_rspValid c.core, fun q hq => portsOf_cmdReady_of_no_rst hq _⟩

end Sys2Proof.Machine
end
